-- ==== Sys2Proof/Word.lean ====
section
/-!
DEFINITION. The words the manual treats as bits: bytes of frames, requests and plates, words of the Configuration Memory, and
zone vectors. Numbers the manual only counts or compares (ids, rooms, minutes, metres, times) are `Nat` or `Int` elsewhere.
-/

namespace Sys2Proof

/-- A byte of a frame, of a local-port transaction, of a plate, or a character of the panel glyph set. -/
abbrev Byte := BitVec 8

/-- A word of the Configuration Memory (R168). -/
abbrev Word := BitVec 16

/-- A zone vector: bit n stands for zone n (chapter 7, 7.1). -/
abbrev ZoneVec := BitVec 32

end Sys2Proof
end

