-- ==== Sys2Proof/Syntax.lean ====
section
/-!
DEFINITION. The commands of the block: one constructor of `Instr` per row of spec/opcode_table.json, in the table's order.
The table gives its rows no fields. An operand here is what the outside world supplies with the event and the rules read:
which line it happens on, the bytes that arrived, the level of a pin that the event samples. Log entry 1.
-/

namespace Sys2Proof

/-- The two hall lines. -/
inductive LineId where
  | a
  | b
  deriving DecidableEq, Repr

/-- The four straps, as sampled on the rising edge of RESET_N (R160). -/
structure Straps where
  lineRate : Bool
  listenOnly : Bool
  prog : Bool
  portEn : Bool
  deriving DecidableEq, Repr

/-- One constructor per row of spec/opcode_table.json.
`body` of a local-port request is the list of whole bytes the transaction shifted in after the request code (R172).
`supply` is the level of PGM_SUPPLY when the request is taken; `busy` is the level of PANEL_BUSY at the edge. -/
inductive Instr where
  | resetNAssert
  | resetNRelease (straps : Straps) (panelDetect : Bool)
  | lineIdleGap (line : LineId) (draw : Nat)
  | lineBusy (line : LineId)
  | backoffExpiry (line : LineId)
  | echoFailure (line : LineId)
  | collision (line : LineId)
  | frameSent (line : LineId)
  | carrierStuck (line : LineId)
  | stuckLineRecovery (line : LineId)
  | startDelimiter (line : LineId)
  | frameEnd (line : LineId) (bytes : List Byte)
  | duplicateEntryExpiry
  | beaconHandover
  | roundEnd
  | beaconTimerExpiry
  | minuteEvent
  | setTime (body : List Byte)
  | inboundMerge
  | postingBufferMerge
  | housekeepingRemoval
  | refreshDue (slot : Nat)
  | refreshScanGrant
  | tombstoneExpiry (slot : Nat)
  | composerSessionRead
  | localPortSessionRead
  | advertHandover
  | advertJob
  | conditionRecomputation
  | pinSetUpdate
  | frameBuilding
  | sweepTimerExpiry
  | sweep
  | roundDue
  | roundRetry
  | promptDue
  | composerRouteRead
  | localPortRouteRead
  | conditionHandover
  | contributionExpiry (source : Nat)
  | spillClear
  | postZones (body : List Byte)
  | ownFrameRetry
  | ownFrameResend
  | validUntilReached
  | passEnd
  | panelIntervalExpiry
  | plateClockedOut
  | panelAck (busy : Bool)
  | ackTimeout
  | panelBusyFall
  | busyTimeout
  | faultTimerExpiry
  | panelHoldFall
  | panelHoldRise
  | readStatus (body : List Byte)
  | ackNotices (body : List Byte)
  | setAttentionEnables (body : List Byte)
  | clearAttentionEnables (body : List Byte)
  | readPlate (body : List Byte)
  | lineRestart (body : List Byte)
  | postSession (body : List Byte)
  | readSessionByIndex (body : List Byte)
  | readSessionNextChanged (body : List Byte)
  | readRoute (body : List Byte)
  | programWord (body : List Byte) (supply : Bool)
  | programCycleEnd
  | pgmSupplyFall
  | verifyWord (body : List Byte) (supply : Bool)
  | requestCodeNamesNoRequest (code : Byte) (body : List Byte)
  deriving DecidableEq, Repr

end Sys2Proof
end

