-- ==== Sys2Proof/Decode.lean ====
section
/-!
DEFINITION. The command that a word spells by the table's bits. spec/opcode_table.json gives no row of this block any bits
("n_rows_with_fixed": 0 in spec/98_reader.md), so no word spells a command. The bytes of frames and of local-port
transactions are operands of commands and are read in Machine/Operands.lean.
-/

namespace Sys2Proof

/-- No row of the table has bits: no word of any length spells a command. -/
def decodeTableWord (_nbits _w : Nat) : Option Instr := none

end Sys2Proof
end

