-- ==== Sys2Proof/Config.lean ====
section
/-!
DEFINITION. What the manual leaves open as a value: constants with no body, so that nothing can be proved of their values.
-/

namespace Sys2Proof.Config

/-- R170: the bits that a program cycle leaves undetermined. Argument: how many such values have been used so far
(`State.freeCount`). Only the bits of the result that R170 calls undetermined are taken from it. Log entry 3. -/
opaque undeterminedBits : Nat → Word

end Sys2Proof.Config
end

