-- ==== Sys2Proof/Machine/State.lean ====
section
/-!
DEFINITION. The state of the station controller as plain data: one structure per block of the block diagram, each with its
reset values, and `State` over them. Every duration is kept in whole microseconds of the local oscillator: at 1 Mbit/s a
bit-time is 1 µs, at 250 kbit/s it is 4 µs, and every other duration of the manual is a whole number of µs (log entry 2).
-/

namespace Sys2Proof.Machine

/-! ## Configuration Memory and start-up (chapter 10) -/

/-- Station modes (chapter 10). -/
inductive Mode where
  | start
  | program
  | unassigned
  | run
  deriving DecidableEq, Repr

/-- Why the station is UNASSIGNED (R161). -/
inductive Reason where
  | blank
  | checksum
  | badId
  deriving DecidableEq, Repr

/-- One cell of the Configuration Memory: address and word. -/
abbrev OtpCell := Nat × Word

/-- A program cycle under way (R169): `before` is the word's value at the start, `lost` records a fall of PGM_SUPPLY (R170). -/
structure ProgramCycle where
  addr : Nat
  pattern : Word
  before : Word
  lost : Bool
  elapsed : Nat
  deriving DecidableEq, Repr

/-- What happens to a sum above 32,000 m (R91). -/
inductive OverflowPolicy where
  | limit
  | substitute
  deriving DecidableEq, Repr

/-- An in-use link after the treatment of R163; `index` is its slot number. -/
structure Link where
  index : Nat
  neighbour : Nat
  zone : Nat
  glyph : Nat
  length : Nat
  stairs : Bool
  deriving DecidableEq, Repr

/-- An in-use room filter: value and mask of 10 bits (R29, R164). -/
structure RoomFilter where
  value : Nat
  mask : Nat
  deriving DecidableEq, Repr

/-- The treated configuration, fixed for the run (R162 to R165). `links`, `directory` and `filters` list the in-use slots in
slot order. -/
structure Settings where
  stationId : Nat
  homeRoom : Nat
  zone : Nat
  policy : OverflowPolicy
  roomName : List Byte
  lookAhead : Nat
  panelInterval : Nat
  links : List Link
  directory : List Nat
  filters : List RoomFilter
  deriving DecidableEq, Repr

/-- Settings before START has read a record: nothing in use. Not read outside RUN. Log entry 4. -/
def Settings.reset : Settings :=
  { stationId := 0, homeRoom := 0, zone := 0, policy := .substitute, roomName := [], lookAhead := 0,
    panelInterval := 1, links := [], directory := [], filters := [] }

/-- Straps before the first rising edge of RESET_N samples them. Log entry 4. -/
def strapsReset : Straps := { lineRate := false, listenOnly := false, prog := false, portEn := false }

/-- Input pins whose level lasts between events: PANEL_HOLD, PANEL_BUSY and PGM_SUPPLY. A reset does not move them; the
level before any event is a choice (log entry 4). -/
structure Pins where
  panelHold : Bool
  panelBusy : Bool
  pgmSupply : Bool
  deriving DecidableEq, Repr

/-- All three low. -/
def Pins.reset : Pins := { panelHold := false, panelBusy := false, pgmSupply := false }

/-! ## Session records (chapter 4, 4.1) -/

/-- Status of a session record (R59). -/
inductive Status where
  | normal
  | full
  | moved
  | cancelled
  | withdrawn
  deriving DecidableEq, Repr

/-- A checked and normalised session record (R59). For WITHDRAWN the fields that R59 does not keep are 0, empty or absent, so
that identical content (R60) is equality. -/
structure SessionRecord where
  publisher : Nat
  number : Nat
  version : Nat
  status : Status
  plenary : Bool
  rooms : List Nat
  day : Nat
  startMin : Nat
  endMin : Nat
  movedTo : Option Nat
  title : List Byte
  track : Option (List Byte)
  speaker : Option (List Byte)
  deriving DecidableEq, Repr

/-! ## Route costs (chapter 5) -/

/-- A route cost with its hop count where its class has one (R84). -/
inductive Cost where
  | finite (metres hops : Nat)
  | closed (hops : Nat)
  | unreachable
  | unknown
  deriving DecidableEq, Repr

/-- An advert value: a cost and a via (R86). -/
structure AdvValue where
  cost : Cost
  via : Nat
  deriving DecidableEq, Repr

/-- One entry of an ADVERT frame: a room with a value per profile. -/
structure AdvertEntry where
  room : Nat
  any : AdvValue
  level : AdvValue
  deriving DecidableEq, Repr

/-! ## Frames -/

/-- A frame body by kind. `coasting` is the sender's state in a beacon: COASTING, or else LOCKED (R42). -/
inductive Body where
  | beacon (epoch day ms : Nat) (coasting : Bool)
  | session (record : SessionRecord)
  | advert (entries : List AdvertEntry)
  | condition (closed notice : ZoneVec)
  deriving DecidableEq, Repr

/-- A reading of the conference time counter: day and ms of day (R37). -/
structure Stamp where
  day : Nat
  ms : Nat
  deriving DecidableEq, Repr

/-- A frame of the Inbound Queue (chapter 2, 2.8); `arrival` is the arrival timestamp, kept for a BEACON only (R32). -/
structure InFrame where
  source : Nat
  seq : Nat
  refresh : Bool
  prompt : Bool
  body : Body
  arrival : Option Stamp
  deriving DecidableEq, Repr

/-! ## Line Controller (chapter 1) -/

/-- State of a hall line (chapter 1, 1.1). -/
inductive LineState where
  | up
  | check
  | stuck
  | down
  deriving DecidableEq, Repr

/-- A queued frame's mark for one line (R15). -/
inductive Mark where
  | pending
  | sent
  | abandoned
  deriving DecidableEq, Repr

/-- Where a Line Engine stands: no access cycle counting, counting a back-off (slots left at the last start or resumption, µs
since then), suspended with slots kept (R4), or transmitting (the bytes of the frame, µs since its start delimiter). -/
inductive Access where
  | rest
  | counting (slots elapsed : Nat)
  | suspended (slots : Nat)
  | sending (bytes : List Byte) (elapsed : Nat)
  deriving DecidableEq, Repr

/-- A frame of the Transmit Queue (R15). `curA`, `curB`: it is that engine's current frame (R5). -/
structure TxFrame where
  seq : Nat
  refresh : Bool
  prompt : Bool
  body : Body
  started : Bool
  markA : Mark
  markB : Mark
  curA : Bool
  curB : Bool
  deriving DecidableEq, Repr

/-- One hall line: engine, carrier monitor and receiver. `beaconCurrent`: the beacon is the engine's current frame. `carrier`
is the line level as the receiver last reported it. `rx` is the arrival timestamp of the frame being assembled, if one is
(R22, R32). The measurements are in µs. `pastFrame` is the model's own: after the last byte of a frame, the carrier measurement of R13
as it goes on if the line has not fallen idle since; none once that is settled (log entry 14). -/
structure Line where
  st : LineState
  collisions : Nat
  window : Nat
  access : Access
  beaconDue : Bool
  beaconSeq : Nat
  beaconCurrent : Bool
  carrier : Bool
  carrierTime : Nat
  pastFrame : Option Nat
  idleTime : Nat
  rx : Option Stamp
  deriving DecidableEq, Repr

/-- R21. -/
def Line.reset : Line :=
  { st := .up, collisions := 0, window := 16, access := .rest, beaconDue := false, beaconSeq := 0,
    beaconCurrent := false, carrier := false, carrierTime := 0, pastFrame := none,
    idleTime := 0, rx := none }

/-! ## Receive Sorter (chapter 2) -/

/-- An entry of the duplicate list; `age` in µs (R26, R27). The list is kept in order of insertion, oldest first; every age is
below 2 s, as an entry that reaches it is gone (R27). -/
structure DupEntry where
  source : Nat
  seq : Nat
  age : Nat
  deriving DecidableEq, Repr

/-! ## Time Unit (chapter 3) -/

/-- Sync state. -/
inductive Sync where
  | free
  | joining
  | locked
  | coasting
  deriving DecidableEq, Repr

/-- The Time Unit. `frac` is the internal fraction of a millisecond in units of 10⁻⁹ ms, 0..999,999,999. A timer is `none`
while stopped. `minuteGiven` is the model's own: the current minute at the last minute event, so that a crossing whose event
has not yet been given is known (log entry 8). -/
structure TimeUnit where
  day : Nat
  ms : Nat
  frac : Nat
  trim : Int
  epoch : Nat
  sync : Sync
  devs : List (Nat × Int)
  missed : Nat
  outBand : Nat
  stale : Nat
  roundTimer : Option Nat
  beaconTimer : Option Nat
  minuteGiven : Nat
  deriving DecidableEq, Repr

/-- R57. -/
def TimeUnit.reset : TimeUnit :=
  { day := 0, ms := 0, frac := 0, trim := 0, epoch := 0, sync := .free, devs := [], missed := 0, outBand := 0,
    stale := 0, roundTimer := none, beaconTimer := none, minuteGiven := 0 }

/-! ## Session Table (chapter 4) -/

/-- An entry of the Session Table (R61). Times are table-clock readings in µs. -/
structure SessionEntry where
  slot : Nat
  record : SessionRecord
  arrival : Nat
  isLocal : Bool
  nextRefresh : Option Nat
  expiry : Option Nat
  deriving DecidableEq, Repr

/-- A running housekeeping pass: day and minute of its event, and the first slot it has not yet passed (R72). -/
structure HousekeepingPass where
  day : Nat
  minute : Nat
  next : Nat
  deriving DecidableEq, Repr

/-- The Session Table. `entries` stands in arrival order (R61), each entry with its slot. `posting` holds the posted record's
bytes. `changed` is the order of changed marks, by slot: an entry's mark is set while its slot is in it (R81). `refreshReqs`
are the requests of the refresh scan, (next refresh time, slot), earliest first (R74). -/
structure SessionTable where
  entries : List SessionEntry
  posting : Option (List Byte)
  changed : List Nat
  refreshReqs : List (Nat × Nat)
  running : Option HousekeepingPass
  waiting : Option (Nat × Nat)
  clock : Nat
  deriving DecidableEq, Repr

/-- R83. -/
def SessionTable.reset : SessionTable :=
  { entries := [], posting := none, changed := [], refreshReqs := [], running := none, waiting := none, clock := 0 }

/-! ## Route Engine (chapters 5 and 6) -/

/-- The two stored values of one link for a room, with the time heard (R99). -/
structure StoredValues where
  link : Nat
  any : AdvValue
  level : AdvValue
  heard : Nat
  deriving DecidableEq, Repr

/-- A best: cost and best link, `none` for link "none" (R94). -/
structure Best where
  cost : Cost
  link : Option Nat
  deriving DecidableEq, Repr

/-- A Route Table entry (R99). -/
structure RouteEntry where
  room : Nat
  any : Best
  level : Best
  stored : List StoredValues
  pinned : Bool
  changeCount : Nat
  deriving DecidableEq, Repr

/-- The waiting advert job: source, entries and moment heard (R102). -/
structure AdvertJob where
  source : Nat
  entries : List AdvertEntry
  heard : Nat
  deriving DecidableEq, Repr

/-- A round of adverts: not under way, a frame due to be offered, or waiting for a retry at a route-clock reading (R113, R114). -/
inductive RoundState where
  | idle
  | due
  | retryAt (t : Nat)
  deriving DecidableEq, Repr

/-- The five kinds of job, in the order of R101. -/
inductive Job where
  | condition
  | pins
  | advert
  | frames
  | sweep
  deriving DecidableEq, Repr

/-- One entry operation of a job on the Route Table: an advert entry applied (R102), an entry recomputed at a condition
recomputation, where `own` tells that the own zone's bit has changed (R111), an entry's pinned flag made to follow the pin set
(R100), an entry created for a room of the pin set (R100), and an entry judged by the sweep of a moment (R108, R109). -/
inductive EntryOp where
  | apply (source heard : Nat) (entry : AdvertEntry)
  | recompute (room : Nat) (own : Bool)
  | repin (room : Nat)
  | create (room : Nat)
  | age (room moment : Nat)
  deriving DecidableEq, Repr

/-- The job in hand, with the entry operations it has still to do, in order (R101). -/
structure JobInHand where
  job : Job
  left : List EntryOp
  deriving DecidableEq, Repr

/-- The Route Engine. `entries` stands in ascending room order; `promptSet` and `pinSet` in ascending order. Times are
route-clock readings in µs: `nextRound` and `nextSweep` are when those timers reach their limit next, `promptAt` when the
prompt timer reaches 1 s. The `…Job` fields are the jobs waiting, `inHand` is the job under way between two of its entry
operations (R101). -/
structure RouteEngine where
  entries : List RouteEntry
  pinSet : List Nat
  promptSet : List Nat
  promptAt : Option Nat
  promptDue : Bool
  nextRound : Option Nat
  round : RoundState
  cursor : Nat
  nextSweep : Option Nat
  kept : ZoneVec
  conditionJob : Bool
  pinJob : Option (List Nat)
  advertJob : Option AdvertJob
  sweepJob : Bool
  inHand : Option JobInHand
  clock : Nat
  deriving DecidableEq, Repr

/-- R119. -/
def RouteEngine.reset : RouteEngine :=
  { entries := [], pinSet := [], promptSet := [], promptAt := none, promptDue := false, nextRound := none,
    round := .idle, cursor := 1, nextSweep := none, kept := 0, conditionJob := false, pinJob := none,
    advertJob := none, sweepJob := false, inHand := none, clock := 0 }

/-! ## Condition List (chapter 7) -/

/-- A contribution (R120); `heard` is a list-clock reading in µs. -/
structure Contribution where
  source : Nat
  closed : ZoneVec
  notice : ZoneVec
  heard : Nat
  deriving DecidableEq, Repr

/-- The Condition List. `contributions` stands in the order of times last heard. `spillAt` is the spill record's time last
merged while it is live (R123). `resendAt` is when the resend timer reaches 10 s, `retryAt` when a refused own frame is
offered again (R126); all are list-clock readings in µs. -/
structure ConditionList where
  contributions : List Contribution
  spillClosed : ZoneVec
  spillNotice : ZoneVec
  spillAt : Option Nat
  ownClosed : ZoneVec
  ownNotice : ZoneVec
  ownPending : Bool
  resendAt : Option Nat
  retryAt : Option Nat
  aggClosed : ZoneVec
  aggNotice : ZoneVec
  clock : Nat
  deriving DecidableEq, Repr

/-- R128. -/
def ConditionList.reset : ConditionList :=
  { contributions := [], spillClosed := 0, spillNotice := 0, spillAt := none, ownClosed := 0, ownNotice := 0,
    ownPending := false, resendAt := none, retryAt := none, aggClosed := 0, aggNotice := 0, clock := 0 }

/-! ## Plate Composer (chapter 8) -/

/-- Route state of a route part (R131); a glyph is its number in configuration order. -/
inductive RouteState where
  | glyph (g : Nat)
  | thisRoom
  | closed
  | noRouteYet
  | askStaff
  deriving DecidableEq, Repr

/-- Step-free marker (R131). -/
inductive StepFree where
  | same
  | otherWay (g : Nat)
  | noneKnown
  deriving DecidableEq, Repr

/-- A route part (R130, R131); a displayed distance of 0 is "here". -/
structure RoutePart where
  state : RouteState
  distance : Option Nat
  stepFree : StepFree
  deriving DecidableEq, Repr

/-- Status marker of a session line (R135). -/
inductive Marker where
  | none
  | full
  | cancelled
  | moved
  deriving DecidableEq, Repr

/-- A session line (R130). Fields a kind of line does not hold are absent; a next line's end is 0. -/
structure SessionLine where
  publisher : Nat
  number : Nat
  title : List Byte
  track : Option (List Byte)
  speaker : Option (List Byte)
  startMin : Nat
  endMin : Nat
  marker : Marker
  room : Option Nat
  movedTo : Option Nat
  part : Option RoutePart
  countdown : Option Nat
  deriving DecidableEq, Repr

/-- A RUN plate (R129). -/
structure RunPlate where
  stationId : Nat
  nameplate : Bool
  directory : Bool
  awaitingTime : Bool
  areaClosed : Bool
  attention : Bool
  roomName : List Byte
  homeRoom : Nat
  combined : List Nat
  current : Option SessionLine
  next : Option SessionLine
  lines : List SessionLine
  deriving DecidableEq, Repr

/-- A plate, without its plate sequence, which the Panel Port assigns at each attempt (R129, R152). -/
inductive Plate where
  | run (p : RunPlate)
  | unassigned (reason : Reason) (idField : Nat)
  | programming
  deriving DecidableEq, Repr

/-- The cached plate with its dependency record (R139). `validUntilReached` is the model's own: the moment has been reached
and has invalidated this cache (log entry 13). -/
structure Cache where
  plate : Plate
  keys : List (Nat × Nat)
  rooms : List Nat
  zoneBits : Option (Bool × Bool)
  passMoment : Stamp
  validUntil : Option Stamp
  validUntilReached : Bool
  deriving DecidableEq, Repr

/-- A Route Table entry as a Composer read returns it: bests and the best links' glyphs (R118). -/
structure RouteView where
  room : Nat
  any : Best
  level : Best
  anyGlyph : Nat
  levelGlyph : Nat
  deriving DecidableEq, Repr

/-- A Session Table entry as a read returns it, whole: record, slot, arrival time, origin, tombstone standing and changed mark
(R80). -/
structure SessionView where
  slot : Nat
  record : SessionRecord
  arrival : Nat
  isLocal : Bool
  tombstone : Bool
  changed : Bool
  deriving DecidableEq, Repr

/-- A running pass: the readings of R132, what the reads of the slots have returned so far, an entry or the slot empty, and the
routes read so far (R145). -/
structure Pass where
  known : Bool
  moment : Stamp
  closed : ZoneVec
  notice : ZoneVec
  slots : List (Option SessionView)
  routes : List RouteView
  deriving DecidableEq, Repr

/-- State of the Composer (chapter 8). -/
inductive ComposerState where
  | idle
  | valid
  | composing
  | finalPass
  | fixed
  deriving DecidableEq, Repr

/-- The Plate Composer. The cache is valid in VALID and FIXED. -/
structure Composer where
  st : ComposerState
  cache : Option Cache
  offered : Option Plate
  pinSet : List Nat
  discard : Nat
  late : Bool
  pass : Option Pass
  deriving DecidableEq, Repr

/-- R149. -/
def Composer.reset : Composer :=
  { st := .idle, cache := none, offered := none, pinSet := [], discard := 0, late := false, pass := none }

/-! ## Panel Port (chapter 9) -/

/-- Panel state. -/
inductive PanelState where
  | absent
  | idle
  | sending
  | awaitAck
  | refreshing
  | fault
  deriving DecidableEq, Repr

/-- Attempt phase of a fault attempt (R156). -/
inductive AttemptPhase where
  | sending
  | awaitAck
  | refreshing
  deriving DecidableEq, Repr

/-- The Panel Port. Timers in µs, `none` while stopped; `clocked` counts the µs since the plate in delivery began to be
clocked out. `faultDue`: a fault attempt has fallen due and waits for PANEL_HOLD (R156). -/
structure PanelPort where
  st : PanelState
  slot : Option Plate
  delivery : Option Plate
  attemptSeq : Nat
  lastAck : Nat
  retry : Bool
  phase : Option AttemptPhase
  clocked : Option Nat
  interval : Option Nat
  ackTimer : Option Nat
  busyTimer : Option Nat
  faultTimer : Option Nat
  faultDue : Bool
  deriving DecidableEq, Repr

/-- R159, before PANEL_DETECT has been sampled. The attempt sequence is not in use; log entry 4. -/
def PanelPort.reset : PanelPort :=
  { st := .idle, slot := none, delivery := none, attemptSeq := 0, lastAck := 65535, retry := false, phase := none,
    clocked := none, interval := none, ackTimer := none, busyTimer := none, faultTimer := none, faultDue := false }

/-! ## Local Port (chapter 11) -/

/-- The request in hand (R173, R177). READ SESSION carries its index byte. -/
inductive InHand where
  | postSession
  | readSession (index : Nat)
  | readRoute (room : Nat)
  | programWord
  deriving DecidableEq, Repr

/-- The Local Port. `response` is the response buffer as the bytes SDO clocks out: status, code, data. Notices and enables are
bit sets in the order of chapter 12, 12.2. -/
structure LocalPort where
  response : List Byte
  inHand : Option InHand
  notices : BitVec 16
  enables : BitVec 18
  delivered : Bool
  deriving DecidableEq, Repr

/-- R181: status OK, naming the no-request code. -/
def LocalPort.reset : LocalPort :=
  { response := [0x00, 0x00], inHand := none, notices := 0, enables := 0, delivered := false }

/-! ## The whole state -/

/-- The state of the block and the queue of commands that are waiting, first in, first out. `freeCount` is the model's own:
how many undetermined values have been used (log entry 3). -/
structure State where
  mode : Mode
  reason : Option Reason
  straps : Straps
  pins : Pins
  otp : List OtpCell
  locked : Bool
  cycle : Option ProgramCycle
  settings : Settings
  idField : Nat
  lineA : Line
  lineB : Line
  txQueue : List TxFrame
  ownSeq : Nat
  dups : List DupEntry
  inbound : List InFrame
  time : TimeUnit
  sessions : SessionTable
  routes : RouteEngine
  zones : ConditionList
  composer : Composer
  panel : PanelPort
  port : LocalPort
  freeCount : Nat
  pending : List Instr
  deriving DecidableEq, Repr

/-- The machine after power-on, RESET_N still low: every block at its reset values, in START (R160), with a fresh
Configuration Memory (unprogrammed words read 0xFFFF, R161) and so unlocked (R168). Log entry 4. -/
def State.reset : State :=
  { mode := .start, reason := none, straps := strapsReset, pins := Pins.reset, otp := [], locked := false,
    cycle := none, settings := Settings.reset, idField := 0, lineA := Line.reset, lineB := Line.reset, txQueue := [],
    ownSeq := 0, dups := [], inbound := [], time := TimeUnit.reset, sessions := SessionTable.reset,
    routes := RouteEngine.reset, zones := ConditionList.reset, composer := Composer.reset,
    panel := PanelPort.reset, port := LocalPort.reset, freeCount := 0, pending := [] }

/-- Why a step stops with a fault: no rule of the manual makes a command stop the station, so there is no constructor. -/
inductive Fault where
  deriving DecidableEq, Repr

/-- Why a command is refused. -/
inductive Refusal where
  /-- Raised by an arm of exec whose command has no meaning yet. Safe: nothing is claimed of that command. -/
  | notModelled (mnemonic : String)
  deriving DecidableEq, Repr

end Sys2Proof.Machine
end

