-- ==== Sys2Proof/Machine/Flags.lean ====
section
/-!
DEFINITION. The station notices, their bits, how they are raised and acknowledged, and the ATTN output (chapter 11, 11.5, 11.6).
-/

namespace Sys2Proof.Machine

/-- The 16 station notices, in the bit order of chapter 12, 12.2. -/
inductive Notice where
  | inboundPressure
  | inboundOverrun
  | idClash
  | txAbandoned
  | lineAStuck
  | lineBStuck
  | lineADown
  | lineBDown
  | timeStep
  | sessionTableFull
  | versionConflict
  | routeTableFull
  | costOverflow
  | hopLimit
  | conditionSpill
  | panelFault
  deriving DecidableEq, Repr

/-- The notice's bit in the notice set and in the enables. -/
def Notice.bit : Notice → Nat
  | .inboundPressure => 0
  | .inboundOverrun => 1
  | .idClash => 2
  | .txAbandoned => 3
  | .lineAStuck => 4
  | .lineBStuck => 5
  | .lineADown => 6
  | .lineBDown => 7
  | .timeStep => 8
  | .sessionTableFull => 9
  | .versionConflict => 10
  | .routeTableFull => 11
  | .costOverflow => 12
  | .hopLimit => 13
  | .conditionSpill => 14
  | .panelFault => 15

/-- The notice alone, as a notice set. -/
def Notice.mask (n : Notice) : BitVec 16 := 1#16 <<< n.bit

/-- R178: a raised notice is set; one already set stays set. -/
def LocalPort.raiseMask (m : BitVec 16) (p : LocalPort) : LocalPort := { p with notices := p.notices ||| m }

/-- R178: raise one notice. -/
def LocalPort.raise (n : Notice) (p : LocalPort) : LocalPort := p.raiseMask n.mask

/-- Raise one notice under a condition. -/
def LocalPort.raiseIf (c : Bool) (n : Notice) (p : LocalPort) : LocalPort := if c then p.raise n else p

/-- R178: every named notice that is set is cleared; the others keep their values. -/
def LocalPort.acknowledge (named : BitVec 16) (p : LocalPort) : LocalPort := { p with notices := p.notices &&& ~~~named }

/-- The notice is set in the notice set. -/
def LocalPort.noticeSet (n : Notice) (p : LocalPort) : Bool := p.notices.getLsbD n.bit

/-- Bit of the enable CHANGED_SESSIONS (chapter 12, 12.2). -/
def changedSessionsBit : Nat := 16

/-- Bit of the enable PLATE_DELIVERED (chapter 12, 12.2). -/
def plateDeliveredBit : Nat := 17

/-- R180: one of the three conditions of ATTN holds. -/
def State.attnCondition (s : State) : Bool :=
  decide (s.port.notices &&& s.port.enables.setWidth 16 ≠ 0)
    || (s.port.enables.getLsbD changedSessionsBit && !s.sessions.changed.isEmpty)
    || (s.port.enables.getLsbD plateDeliveredBit && s.port.delivered)

/-- R180, R181: the ATTN output; `none` is not driven (PORT_EN sampled low), otherwise high or low. -/
def State.attn (s : State) : Option Bool := if s.straps.portEn then some s.attnCondition else none

end Sys2Proof.Machine
end

