-- ==== Sys2Proof/Machine/Operands.lean ====
section
/-!
DEFINITION. Every layout of chapter 12, read and written: multi-byte fields most significant byte first, the hall-line frame
and its CRC, session records, advert entries, zone vectors, plates on the panel port, and the configuration record.
-/

namespace Sys2Proof.Machine

/-! ## Numbers and texts -/

/-- A number as one byte. -/
def byte (n : Nat) : Byte := BitVec.ofNat 8 n

/-- A number as two bytes, most significant first. -/
def be16 (n : Nat) : List Byte := [byte (n / 256), byte n]

/-- A number as three bytes. -/
def be24 (n : Nat) : List Byte := [byte (n / 65536), byte (n / 256), byte n]

/-- A number as four bytes. -/
def be32 (n : Nat) : List Byte := [byte (n / 16777216), byte (n / 65536), byte (n / 256), byte n]

/-- The value of two bytes. -/
def val16 (h l : Byte) : Nat := h.toNat * 256 + l.toNat

/-- The value of four bytes. -/
def val32 (a b c d : Byte) : Nat := ((a.toNat * 256 + b.toNat) * 256 + c.toNat) * 256 + d.toNat

/-- A text: length byte, then the characters. -/
def text (t : List Byte) : List Byte := byte t.length :: t

/-- The first `n` bytes and the rest, if there are as many. -/
def splitBytes (n : Nat) (bs : List Byte) : Option (List Byte × List Byte) :=
  if bs.length < n then none else some (bs.take n, bs.drop n)

/-- Read a text. -/
def getText : List Byte → Option (List Byte × List Byte)
  | [] => none
  | l :: bs => splitBytes l.toNat bs

/-- Read `n` two-byte numbers. -/
def getWords : Nat → List Byte → Option (List Nat × List Byte)
  | 0, bs => some ([], bs)
  | n + 1, h :: l :: bs => (getWords n bs).map fun p => (val16 h l :: p.1, p.2)
  | _ + 1, _ => none

/-- Read something only when its presence flag is set. -/
def getIf {α : Type} (present : Bool) (get : List Byte → Option (α × List Byte)) (bs : List Byte) :
    Option (Option α × List Byte) :=
  if present then (get bs).map fun p => (some p.1, p.2) else some (none, bs)

/-- Read one two-byte number. -/
def getWord : List Byte → Option (Nat × List Byte)
  | h :: l :: bs => some (val16 h l, bs)
  | _ => none

/-! ## CRC (R1, R23, R182) -/

/-- One bit into the CRC with polynomial x^16 + x^12 + x^5 + 1. -/
def crcBit (c : BitVec 16) (b : Bool) : BitVec 16 :=
  if c.getLsbD 15 != b then (c <<< 1) ^^^ 0x1021#16 else c <<< 1

/-- One byte into the CRC, from its most significant bit. -/
def crcByte (c : BitVec 16) (x : Byte) : BitVec 16 :=
  [7, 6, 5, 4, 3, 2, 1, 0].foldl (fun c i => crcBit c (x.getLsbD i)) c

/-- R182: the CRC over header and body, initial value all ones, no final inversion. -/
def crc16 (bs : List Byte) : BitVec 16 := bs.foldl crcByte 0xFFFF#16

/-! ## Session records (chapter 12, 12.1) -/

/-- Status codes. -/
def Status.code : Status → Nat
  | .normal => 0
  | .full => 1
  | .moved => 2
  | .cancelled => 3
  | .withdrawn => 4

/-- The status a code names, if it names one (R30). -/
def statusOfCode : Nat → Option Status
  | 0 => some .normal
  | 1 => some .full
  | 2 => some .moved
  | 3 => some .cancelled
  | 4 => some .withdrawn
  | _ => none

/-- Presence bit of an optional field. -/
def flagBit {α : Type} (o : Option α) (bit : Nat) : Nat := if o.isSome then 2 ^ bit else 0

/-- The record flags byte. 12.1 gives bits 4..7 no value as they are sent; DESIGN CHOICE: 0 (log entry 42). -/
def SessionRecord.flagsByte (r : SessionRecord) : Byte :=
  byte ((if r.plenary then 1 else 0) + flagBit r.movedTo 1 + flagBit r.track 2 + flagBit r.speaker 3)

/-- A session record on the line and on the local port. A WITHDRAWN record holds 0, empty and absent in the fields R59 does
not keep, so it takes the fixed form of R182. -/
def encodeRecord (r : SessionRecord) : List Byte :=
  be16 r.publisher ++ be16 r.number ++ be16 r.version ++ [byte r.status.code, r.flagsByte, byte r.rooms.length]
    ++ r.rooms.flatMap be16 ++ [byte r.day] ++ be16 r.startMin ++ be16 r.endMin
    ++ (r.movedTo.map be16).getD [] ++ text r.title ++ (r.track.map text).getD [] ++ (r.speaker.map text).getD []

/-- A record as its bytes read, before any check. -/
structure RawRecord where
  publisher : Nat
  number : Nat
  version : Nat
  status : Nat
  plenary : Bool
  rooms : List Nat
  day : Nat
  startMin : Nat
  endMin : Nat
  movedTo : Option Nat
  title : List Byte
  track : Option (List Byte)
  speaker : Option (List Byte)
  deriving DecidableEq, Repr

/-- The tail of a record after its times: moved-to room, title, track label, speaker line, and nothing left (R182). -/
def parseTail (flags : Byte) (bs : List Byte) :
    Option (Option Nat × List Byte × Option (List Byte) × Option (List Byte)) :=
  match getIf (flags.getLsbD 1) getWord bs with
  | none => none
  | some (moved, bs) =>
    match getText bs with
    | none => none
    | some (title, bs) =>
      match getIf (flags.getLsbD 2) getText bs with
      | none => none
      | some (track, bs) =>
        match getIf (flags.getLsbD 3) getText bs with
        | some (speaker, []) => some (moved, title, track, speaker)
        | _ => none

/-- Read a record's bytes; none where its lengths do not exactly fill them (R182). -/
def parseRecord : List Byte → Option RawRecord
  | p1 :: p0 :: n1 :: n0 :: v1 :: v0 :: st :: fl :: cnt :: bs =>
    match getWords cnt.toNat bs with
    | some (rooms, d :: s1 :: s0 :: e1 :: e0 :: rest) =>
      (parseTail fl rest).map fun t =>
        { publisher := val16 p1 p0, number := val16 n1 n0, version := val16 v1 v0, status := st.toNat,
          plenary := fl.getLsbD 0, rooms := rooms, day := d.toNat, startMin := val16 s1 s0, endMin := val16 e1 e0,
          movedTo := t.1, title := t.2.1, track := t.2.2.1, speaker := t.2.2.2 }
    | _ => none
  | _ => none

/-- A room that can stand in a record: 1..1023. -/
def roomOk (r : Nat) : Bool := decide (1 ≤ r) && decide (r ≤ 1023)

/-- The checks of R30 that a WITHDRAWN record does not take: times, texts and moved-to room. -/
def RawRecord.detailsOk (r : RawRecord) : Bool :=
  decide (r.startMin < r.endMin) && decide (r.endMin ≤ 1440) && decide (r.title.length ≤ 48)
    && r.track.all (fun t => decide (t.length ≤ 16)) && r.speaker.all (fun t => decide (t.length ≤ 32))
    && (decide (r.status = Status.moved.code) == r.movedTo.isSome) && r.movedTo.all roomOk

/-- R30: the record has none of the faults R30 lists (its field lengths are checked by `parseRecord`). -/
def RawRecord.ok (r : RawRecord) : Bool :=
  decide (1 ≤ r.publisher) && decide (r.publisher ≤ 4000) && decide (r.number ≠ 0) && decide (r.version ≠ 0)
    && decide (r.status ≤ 4) && decide (1 ≤ r.rooms.length) && decide (r.rooms.length ≤ 4) && r.rooms.all roomOk
    && (decide (r.status = Status.withdrawn.code) || r.detailsOk)

/-- R30: a room that repeats an earlier one is removed; the first occurrence keeps its place. -/
def keepFirst (rooms : List Nat) : List Nat :=
  rooms.foldl (fun acc r => if r ∈ acc then acc else acc ++ [r]) []

/-- R30, R162: a control code is replaced by '?'. -/
def cleanChar (c : Byte) : Byte := if c.toNat < 0x20 then 0x3F#8 else c

/-- R30, R59: the normalised record; a WITHDRAWN record keeps key, version, rooms and PLENARY flag alone. -/
def RawRecord.normalise (r : RawRecord) : SessionRecord :=
  let status := (statusOfCode r.status).getD .normal
  if status = .withdrawn then
    { publisher := r.publisher, number := r.number, version := r.version, status := .withdrawn, plenary := r.plenary,
      rooms := keepFirst r.rooms, day := 0, startMin := 0, endMin := 0, movedTo := none, title := [], track := none,
      speaker := none }
  else
    { publisher := r.publisher, number := r.number, version := r.version, status := status, plenary := r.plenary,
      rooms := keepFirst r.rooms, day := r.day, startMin := r.startMin, endMin := r.endMin, movedTo := r.movedTo,
      title := r.title.map cleanChar, track := r.track.map (·.map cleanChar),
      speaker := r.speaker.map (·.map cleanChar) }

/-- A record's bytes checked and normalised (R30, R77): none for a record with a fault. -/
def readRecord (bs : List Byte) : Option SessionRecord :=
  match parseRecord bs with
  | some r => if r.ok then some r.normalise else none
  | none => none

/-! ## Costs and advert entries (R84, R31, chapter 12, 12.1) -/

/-- Line code of a cost (R84). -/
def Cost.code : Cost → Nat
  | .finite m _ => m
  | .closed _ => 65533
  | .unreachable => 65534
  | .unknown => 65535

/-- The hop count field. Where the class has no hop count it is 0: stated for an advert (R84, R182); DESIGN CHOICE for a best or
candidate of a READ ROUTE answer (log entry 43). -/
def Cost.hopsField : Cost → Nat
  | .finite _ h => h
  | .closed h => h
  | .unreachable => 0
  | .unknown => 0

/-- Cost (2) and hops (1). In a READ ROUTE answer the hops of an UNKNOWN or UNREACHABLE cost are the model's choice (log entry 43). -/
def encodeCost (c : Cost) : List Byte := be16 c.code ++ [byte c.hopsField]

/-- R31: the cost that a cost code and a hop byte read as. -/
def costOfCode (code hops : Nat) : Cost :=
  if code ≤ 32000 then (if hops ≤ 31 then .finite code hops else .unknown)
  else if code = 65533 then (if hops ≤ 31 then .closed hops else .unknown)
  else if code = 65534 then .unreachable
  else .unknown

/-- One advert value on the line. -/
def encodeValue (v : AdvValue) : List Byte := encodeCost v.cost ++ be16 v.via

/-- One advert entry on the line: 12 bytes. -/
def encodeAdvertEntry (e : AdvertEntry) : List Byte := be16 e.room ++ encodeValue e.any ++ encodeValue e.level

/-- R31: the entries of an ADVERT body; an entry whose room is 0 or above 1023 is skipped; none where the body is not a whole
number of entries. -/
def parseAdvert : List Byte → Option (List AdvertEntry)
  | [] => some []
  | r1 :: r0 :: a1 :: a0 :: ah :: av1 :: av0 :: l1 :: l0 :: lh :: lv1 :: lv0 :: bs =>
    (parseAdvert bs).map fun es =>
      if roomOk (val16 r1 r0) then
        { room := val16 r1 r0,
          any := { cost := costOfCode (val16 a1 a0) ah.toNat, via := val16 av1 av0 },
          level := { cost := costOfCode (val16 l1 l0) lh.toNat, via := val16 lv1 lv0 } } :: es
      else es
  | _ => none

/-! ## Frames (chapter 12, 12.1) -/

/-- Kind codes. -/
def Body.kindCode : Body → Nat
  | .beacon _ _ _ _ => 1
  | .session _ => 2
  | .advert _ => 3
  | .condition _ _ => 4

/-- A zone vector as four bytes. -/
def encodeVec (v : ZoneVec) : List Byte := be32 v.toNat

/-- A body as its bytes. -/
def encodeBody : Body → List Byte
  | .beacon epoch day ms coasting => [byte epoch, byte day] ++ be32 ms ++ [if coasting then 0x02 else 0x01]
  | .session r => encodeRecord r
  | .advert es => es.flatMap encodeAdvertEntry
  | .condition c n => encodeVec c ++ encodeVec n

/-- The flags byte: bit 0 REFRESH, bit 1 PROMPT, the others 0. -/
def frameFlags (refresh prompt : Bool) : Byte := byte ((if refresh then 1 else 0) + (if prompt then 2 else 0))

/-- Header and body of a frame: what the CRC is formed over. -/
def frameHead (kind : Nat) (flags : Byte) (source seq : Nat) (body : List Byte) : List Byte :=
  [byte kind, flags] ++ be16 source ++ [byte seq, byte body.length] ++ body

/-- R182: a whole frame, CRC last. -/
def frameBytes (kind : Nat) (flags : Byte) (source seq : Nat) (body : List Byte) : List Byte :=
  frameHead kind flags source seq body ++ be16 (crc16 (frameHead kind flags source seq body)).toNat

/-- R183: how many bit-times a frame of so many bytes lasts, start delimiter included. -/
def frameBitTimes (bytes : Nat) : Nat := 16 + 10 * bytes

/-- A received frame whose integrity is good (R23). -/
structure RawFrame where
  kind : Nat
  flags : Byte
  source : Nat
  seq : Nat
  body : List Byte
  deriving DecidableEq, Repr

/-- R22: the receiver took in as many bytes as the header's body length calls for, and the CRC; else the line fell idle early. -/
def frameWhole (bytes : List Byte) : Bool := decide (8 + (bytes.getD 5 0).toNat ≤ bytes.length)

/-- R22, R23: read the bytes the receiver took in. None where the body length is above 240, the frame was cut short, or the CRC
does not match. Bytes beyond the CRC are no part of the frame. -/
def parseFrame : List Byte → Option RawFrame
  | k :: f :: s1 :: s0 :: q :: len :: rest =>
    if 240 < len.toNat then none
    else if rest.length < len.toNat + 2 then none
    else
      let body := rest.take len.toNat
      if (rest.drop len.toNat).take 2 = be16 (crc16 (k :: f :: s1 :: s0 :: q :: len :: body)).toNat then
        some { kind := k.toNat, flags := f, source := val16 s1 s0, seq := q.toNat, body := body }
      else none
  | _ => none

/-- R31: a BEACON body. -/
def parseBeacon : List Byte → Option Body
  | [e, d, m3, m2, m1, m0, st] =>
    if 86399999 < val32 m3 m2 m1 m0 then none
    else if st = 0x01#8 then some (.beacon e.toNat d.toNat (val32 m3 m2 m1 m0) false)
    else if st = 0x02#8 then some (.beacon e.toNat d.toNat (val32 m3 m2 m1 m0) true)
    else none
  | _ => none

/-- R31: a CONDITION body. -/
def parseCondition : List Byte → Option Body
  | [c3, c2, c1, c0, n3, n2, n1, n0] =>
    some (.condition (BitVec.ofNat 32 (val32 c3 c2 c1 c0)) (BitVec.ofNat 32 (val32 n3 n2 n1 n0)))
  | _ => none

/-! ## Local-port items (chapter 12, 12.2) -/

/-- A best link or 0xFF for "none". -/
def linkByte (l : Option Nat) : Byte := byte (l.getD 0xFF)

/-- A best: cost (2), hops (1), link (1). The hops of an UNKNOWN or UNREACHABLE best are the model's choice (log entry 43). -/
def encodeBest (b : Best) : List Byte := encodeCost b.cost ++ [linkByte b.link]

/-- Mode code of the status block. START never answers READ STATUS (R174). -/
def Mode.code : Mode → Nat
  | .start => 0
  | .program => 1
  | .unassigned => 2
  | .run => 3

/-- Reason code: 0 none. -/
def reasonCode : Option Reason → Nat
  | none => 0
  | some .blank => 1
  | some .checksum => 2
  | some .badId => 3

/-- Sync state code of the status block. -/
def Sync.code : Sync → Nat
  | .free => 0
  | .joining => 1
  | .locked => 2
  | .coasting => 3

/-- Line state code of the status block. -/
def LineState.code : LineState → Nat
  | .up => 0
  | .check => 1
  | .stuck => 2
  | .down => 3

/-- Panel state code of the status block. -/
def PanelState.code : PanelState → Nat
  | .absent => 0
  | .idle => 1
  | .sending => 2
  | .awaitAck => 3
  | .refreshing => 4
  | .fault => 5

/-- A flag as a bit of a byte. -/
def bitIf (c : Bool) (bit : Nat) : Nat := if c then 2 ^ bit else 0

/-! ## Plates (R185) -/

/-- Route state codes: 0..7 are the glyphs. -/
def RouteState.code : RouteState → Nat
  | .glyph g => g
  | .thisRoom => 8
  | .closed => 9
  | .noRouteYet => 10
  | .askStaff => 11

/-- Step-free marker and glyph. -/
def StepFree.codes : StepFree → List Byte
  | .same => [byte 0, byte 0]
  | .otherWay g => [byte 1, byte g]
  | .noneKnown => [byte 2, byte 0]

/-- A route part: 5 bytes. -/
def encodePart (p : RoutePart) : List Byte :=
  [byte p.state.code] ++ be16 (p.distance.getD 65535) ++ p.stepFree.codes

/-- Status marker codes. -/
def Marker.code : Marker → Nat
  | .none => 0
  | .full => 1
  | .cancelled => 2
  | .moved => 3

/-- The moved-to room, if any, and then the route part, if any. -/
def encodeRoute (l : SessionLine) : List Byte :=
  (l.movedTo.map be16).getD [] ++ (l.part.map encodePart).getD []

/-- What every session line begins with. -/
def encodeLineHead (l : SessionLine) : List Byte :=
  text l.title ++ be16 l.startMin ++ be16 l.endMin ++ [byte l.marker.code]

/-- The presence byte of a current line. 12.3 gives bits 2..7 no value; DESIGN CHOICE: 0 (log entry 42). -/
def SessionLine.presence (l : SessionLine) : Byte := byte (bitIf l.track.isSome 0 + bitIf l.speaker.isSome 1)

/-- A current line; the unnamed bits of its presence byte are the model's choice (log entry 42). -/
def encodeCurrent (l : SessionLine) : List Byte :=
  encodeLineHead l ++ [l.presence] ++ (l.track.map text).getD []
    ++ (l.speaker.map text).getD [] ++ encodeRoute l

/-- A next line; a countdown of 0 is none. -/
def encodeNext (l : SessionLine) : List Byte := encodeLineHead l ++ [byte (l.countdown.getD 0)] ++ encodeRoute l

/-- A directory line. -/
def encodeDirectory (l : SessionLine) : List Byte := encodeLineHead l ++ be16 (l.room.getD 0) ++ encodeRoute l

/-- The parts byte of a RUN plate. 12.3 gives bit 7 no value; DESIGN CHOICE: 0 (log entry 42). -/
def RunPlate.parts (p : RunPlate) : Byte :=
  byte (bitIf p.nameplate 0 + bitIf p.directory 1 + bitIf p.awaitingTime 2 + bitIf p.areaClosed 3 + bitIf p.attention 4
    + bitIf p.current.isSome 5 + bitIf p.next.isSome 6)

/-- A RUN plate from its kind byte on. -/
def encodeRunPlate (p : RunPlate) : List Byte :=
  [byte 1] ++ be16 p.stationId ++ [p.parts]
    ++ (if p.nameplate || p.directory then text p.roomName else [])
    ++ (if p.nameplate then
          be16 p.homeRoom ++ [byte p.combined.length] ++ p.combined.flatMap be16
            ++ (p.current.map encodeCurrent).getD [] ++ (p.next.map encodeNext).getD []
        else [])
    ++ (if p.directory then [byte p.lines.length] ++ p.lines.flatMap encodeDirectory else [])

/-- A plate from its kind byte on. -/
def encodePlateBody : Plate → List Byte
  | .run p => encodeRunPlate p
  | .unassigned reason idField => [byte 2, byte (reasonCode (some reason))] ++ be16 idField
  | .programming => [byte 3]

/-- R185: sequence, length from the kind byte to the end, and the plate. -/
def encodePlate (seq : Nat) (p : Plate) : List Byte :=
  be16 seq ++ be16 (encodePlateBody p).length ++ encodePlateBody p

/-- R185: PNL_CLK runs at 100 kHz, 10 µs a bit: how many µs the plate takes to clock out. -/
def plateClockTime (p : Plate) : Nat := 80 * (encodePlate 0 p).length

/-! ## The configuration record (chapter 12, 12.4; R161 to R164, R186)

`w` gives the word at an address. -/

/-- The words 0..62 that the checksum counts. -/
def recordSum (w : Nat → Word) : Nat := ((List.range 63).map fun i => (w i).toNat).sum

/-- R161: the first check that fails decides the reason; none where all pass. -/
def validateRecord (w : Nat → Word) : Option Reason :=
  if w 63 ≠ 0x0000#16 then some .blank
  else if recordSum w % 65536 ≠ 0 then some .checksum
  else if (w 0).toNat < 1 || 4000 < (w 0).toNat then some .badId
  else none

/-- Bits lo..(lo + n − 1) of a word. -/
def field (x : Word) (lo n : Nat) : Nat := x.toNat / 2 ^ lo % 2 ^ n

/-- R162: the room name, clamped to 24 characters, control codes replaced. -/
def readRoomName (w : Nat → Word) : List Byte :=
  (List.range (min (field (w 5) 0 8) 24)).map fun i =>
    cleanChar (byte (if i % 2 = 0 then field (w (6 + i / 2)) 8 8 else field (w (6 + i / 2)) 0 8))

/-- R163, R186: link slot i of a station with id `own`, if it is in use. -/
def readLink (w : Nat → Word) (own i : Nat) : Option Link :=
  let neighbour := (w (18 + 3 * i)).toNat
  let length := (w (18 + 3 * i + 1)).toNat
  let flags := w (18 + 3 * i + 2)
  if flags.getLsbD 0 || decide (neighbour = 0) || decide (4000 < neighbour) || decide (neighbour = own)
      || decide (length = 0) then none
  else some { index := i, neighbour := neighbour, zone := field flags 8 5, glyph := field flags 2 3,
              length := min length 4000, stairs := !flags.getLsbD 1 }

/-- R164: the in-use directory rooms, in slot order. -/
def readDirectory (w : Nat → Word) : List Nat :=
  (List.range 16).foldl
    (fun acc i => let r := (w (36 + i)).toNat; if roomOk r && !acc.contains r then acc ++ [r] else acc) []

/-- R164, R186: room filter slot i, if it is in use. -/
def readFilter (w : Nat → Word) (i : Nat) : Option RoomFilter :=
  if (w (52 + 2 * i)).getLsbD 15 then none
  else some { value := field (w (52 + 2 * i)) 0 10, mask := field (w (53 + 2 * i)) 0 10 }

/-- R162 to R164: the treated configuration. -/
def readSettings (w : Nat → Word) : Settings :=
  { stationId := (w 0).toNat
    homeRoom := if 1023 < (w 1).toNat then 0 else (w 1).toNat
    zone := field (w 2) 0 5
    policy := if (w 2).getLsbD 8 then .limit else .substitute
    roomName := readRoomName w
    lookAhead := min (w 3).toNat 120
    panelInterval := if (w 4).toNat = 0 then 1 else min (w 4).toNat 60
    links := (List.range 6).filterMap (readLink w (w 0).toNat)
    directory := readDirectory w
    filters := (List.range 4).filterMap (readFilter w) }

end Sys2Proof.Machine
end

