-- ==== Sys2Proof/Machine/Ops.lean ====
section
/-!
DEFINITION. The operations the commands share: how time passes, when an event takes place, the lines, the Configuration Memory
as an addressed memory, offers to the Transmit Queue, beacon-due indications, and answers of the Local Port.
-/

namespace Sys2Proof.Machine

/-! ## Time passing (log entry 2) -/

/-- ms of a day (R37). -/
def dayMs : Nat := 86400000

/-- One ms in units of the counter's fraction, 10⁻⁹ ms. -/
def msUnits : Nat := 1000000000

/-- The counter in units of 10⁻⁹ ms from day 0, 00:00. -/
def TimeUnit.units (t : TimeUnit) : Nat := (t.day * dayMs + t.ms) * msUnits + t.frac

/-- What the counter gains in 1 µs of oscillator time: (1 + trim/1,000,000) µs, in units of 10⁻⁹ ms (R37). -/
def TimeUnit.rate (t : TimeUnit) : Nat := (1000000 + t.trim).toNat

/-- The counter at a number of units, modulo 256 days (R37). -/
def TimeUnit.setUnits (u : Nat) (t : TimeUnit) : TimeUnit :=
  { t with day := u / (dayMs * msUnits) % 256, ms := u / msUnits % dayMs, frac := u % msUnits }

/-- R37: `n` µs of oscillator time; held in FREE. -/
def TimeUnit.advance (n : Nat) (t : TimeUnit) : TimeUnit :=
  if t.sync = .free then t else t.setUnits (t.units + n * t.rate)

/-- A timer that runs counts on. -/
def countOn (n : Nat) (t : Option Nat) : Option Nat := t.map (· + n)

/-- R37, R41, R48. -/
def TimeUnit.elapse (n : Nat) (t : TimeUnit) : TimeUnit :=
  { t.advance n with roundTimer := countOn n t.roundTimer, beaconTimer := countOn n t.beaconTimer }

/-- A Line Engine counts its back-off or its transmission on (R3, R183). -/
def Access.elapse (n : Nat) : Access → Access
  | .counting slots e => .counting slots (e + n)
  | .sending bytes e => .sending bytes (e + n)
  | .rest => .rest
  | .suspended slots => .suspended slots

/-- The carrier monitor runs in UP and CHECK (R12, R13). -/
def Line.monitored (l : Line) : Bool := decide (l.st = .up) || decide (l.st = .check)

/-- A line's engine and measurements count on (R3, R13, R14). -/
def Line.elapse (n : Nat) (l : Line) : Line :=
  { l with
    access := l.access.elapse n
    carrierTime := if l.carrier && l.monitored then l.carrierTime + n else l.carrierTime
    pastFrame := if l.monitored then countOn n l.pastFrame else l.pastFrame
    idleTime := if l.carrier then l.idleTime else l.idleTime + n }

/-- Age limit of a duplicate-list entry, 2 s (R27). -/
def dupLimit : Nat := 2000000

/-- R27: the entry's age is below 2 s. -/
def DupEntry.young (d : DupEntry) : Bool := decide (d.age < dupLimit)

/-- R27: an entry's age advances. -/
def DupEntry.elapse (n : Nat) (d : DupEntry) : DupEntry := { d with age := d.age + n }

/-- R27: the duplicate list ages; an entry whose age reaches 2 s is removed. -/
def dupsElapse (n : Nat) (dups : List DupEntry) : List DupEntry := (dups.map (·.elapse n)).filter DupEntry.young

/-- The Panel Port's timers count oscillator time (chapter 9). -/
def PanelPort.elapse (n : Nat) (p : PanelPort) : PanelPort :=
  { p with
    clocked := countOn n p.clocked, interval := countOn n p.interval, ackTimer := countOn n p.ackTimer,
    busyTimer := countOn n p.busyTimer, faultTimer := countOn n p.faultTimer }

/-- R169. -/
def ProgramCycle.elapse (n : Nat) (c : ProgramCycle) : ProgramCycle := { c with elapsed := c.elapsed + n }

/-- The station works in RUN (R165). -/
def State.running (s : State) : Bool := decide (s.mode = .run)

/-- How much the clocks that run in RUN alone count on. -/
def State.runTime (n : Nat) (s : State) : Nat := if s.running then n else 0

/-- `n` µs of local oscillator time pass. The table clock, the route clock and the list clock run in RUN (R83, R119, R128), and
so do the lines (R19, R22). An entry of the duplicate list leaves as its age reaches 2 s, whatever command lets the time pass
(R27). -/
def State.elapse (n : Nat) (s : State) : State :=
  if n = 0 then s
  else
    { s with
      lineA := if s.running then s.lineA.elapse n else s.lineA
      lineB := if s.running then s.lineB.elapse n else s.lineB
      dups := dupsElapse n s.dups
      time := s.time.elapse n
      sessions := { s.sessions with clock := s.sessions.clock + s.runTime n }
      routes := { s.routes with clock := s.routes.clock + s.runTime n }
      zones := { s.zones with clock := s.zones.clock + s.runTime n }
      panel := s.panel.elapse n
      cycle := s.cycle.map (·.elapse n) }

/-- How an event takes place: `w` is how many µs from now it comes about (0: it is due now), or none where it cannot come
about in this state, and then nothing happens. Log entry 5. -/
def State.after (w : Option Nat) (f : State → State) (s : State) : State :=
  match w with
  | none => s
  | some n => f (s.elapse n)

/-- The wait until a timer reaches its limit; none while it is stopped. -/
def timerWait (limit : Nat) (t : Option Nat) : Option Nat := t.map (limit - ·)

/-- The wait until a clock reaches a reading; none where there is none. -/
def clockWait (clock : Nat) (at? : Option Nat) : Option Nat := at?.map (· - clock)

/-- A wait that exists only under a condition. -/
def onlyIf (c : Bool) (w : Option Nat) : Option Nat := if c then w else none

/-! ## The lines -/

/-- µs of one bit-time (R160: LINE_RATE low 250 kbit/s, high 1 Mbit/s). -/
def State.bitTime (s : State) : Nat := if s.straps.lineRate then 1 else 4

/-- The hall line. -/
def State.line (l : LineId) (s : State) : Line :=
  match l with
  | .a => s.lineA
  | .b => s.lineB

/-- Replace a hall line. -/
def State.setLine (l : LineId) (x : Line) (s : State) : State :=
  match l with
  | .a => { s with lineA := x }
  | .b => { s with lineB := x }

/-- The other hall line. -/
def otherLine : LineId → LineId
  | .a => .b
  | .b => .a

/-- A queued frame's mark for a line. -/
def TxFrame.mark (l : LineId) (f : TxFrame) : Mark :=
  match l with
  | .a => f.markA
  | .b => f.markB

/-- The frame is the current frame of a line's engine. -/
def TxFrame.current (l : LineId) (f : TxFrame) : Bool :=
  match l with
  | .a => f.curA
  | .b => f.curB

/-- Set a frame's mark for a line; with it the frame stops being, or becomes, that engine's current frame. -/
def TxFrame.setMark (l : LineId) (m : Mark) (cur : Bool) (f : TxFrame) : TxFrame :=
  match l with
  | .a => { f with markA := m, curA := cur }
  | .b => { f with markB := m, curB := cur }

/-- The state with another Transmit Queue. -/
def State.withQueue (q : List TxFrame) (s : State) : State := { s with txQueue := q }

/-- R178: a notice raised. -/
def State.raise (n : Notice) (s : State) : State := { s with port := s.port.raise n }

/-- The driver enable LA_DE or LB_DE: asserted from the first bit of a transmission to its end (chapter 1, 1.4). -/
def Line.driverEnable (x : Line) : Bool :=
  match x.access with
  | .sending _ _ => true
  | _ => false

/-! ## The Configuration Memory as a memory (R168) -/

/-- What an unlisted address reads as: an unprogrammed word (R161). -/
def otpBlank : Word := 0xFFFF#16

/-- The word at an address. -/
def otpRead (cells : List OtpCell) (a : Nat) : Word :=
  match cells with
  | [] => otpBlank
  | (b, w) :: rest => if b = a then w else otpRead rest a

/-- The cells with a word placed at an address, in rising order; a blank word is not listed. -/
def otpPlace (a : Nat) (w : Word) : List OtpCell → List OtpCell
  | [] => if w = otpBlank then [] else [(a, w)]
  | (b, x) :: rest =>
    if b < a then (b, x) :: otpPlace a w rest
    else if b = a then (if w = otpBlank then rest else (a, w) :: rest)
    else if w = otpBlank then (b, x) :: rest
    else (a, w) :: (b, x) :: rest

/-- The canonical form: addresses strictly rising, no cell equal to a blank word. -/
def otpWf : List OtpCell → Bool
  | [] => true
  | (a, w) :: rest => decide (w ≠ otpBlank) && rest.all (fun c => decide (a < c.1)) && otpWf rest

/-- R168: locked while word 127 holds any value other than 0xFFFF. -/
def otpLocked (cells : List OtpCell) : Bool := decide (otpRead cells 127 ≠ otpBlank)

/-- R170: the word a cycle that lost its supply leaves: every bit as before, but for those that were 1 in `before` and 0 in
`pattern`, which are taken from `free`. -/
def undeterminedWord (before pattern free : Word) : Word :=
  before &&& (pattern ||| free)

/-- Bits cut short: the word of a cycle under way becomes undetermined in its targeted bits (R170). -/
def ProgramCycle.cutShort (c : ProgramCycle) (free : Word) (cells : List OtpCell) : List OtpCell :=
  otpPlace c.addr (undeterminedWord c.before c.pattern free) cells

/-- PGM_SUPPLY stands at a level: a fall is recorded by a cycle under way (R170). -/
def State.supplyLevel (level : Bool) (s : State) : State :=
  { s with
    pins := { s.pins with pgmSupply := level }
    cycle := s.cycle.map fun c => { c with lost := c.lost || !level } }

/-! ## Offers to the Transmit Queue (R15 to R19) and beacon-due indications (R2) -/

/-- A frame stays in the queue while one of its marks is PENDING (R15). -/
def TxFrame.live (f : TxFrame) : Bool := decide (f.markA = .pending) || decide (f.markB = .pending)

/-- R15: frames with no PENDING mark leave. -/
def dropFinished (q : List TxFrame) : List TxFrame := q.filter TxFrame.live

/-- The body is a CONDITION body. -/
def Body.isCondition : Body → Bool
  | .condition _ _ => true
  | _ => false

/-- The body is a BEACON body. -/
def Body.isBeacon : Body → Bool
  | .beacon _ _ _ _ => true
  | _ => false

/-- The body is a SESSION body. -/
def Body.isSession : Body → Bool
  | .session _ => true
  | _ => false

/-- The body is an ADVERT body. -/
def Body.isAdvert : Body → Bool
  | .advert _ => true
  | _ => false

/-- R17: a queued CONDITION frame not started on either line. -/
def TxFrame.replaceable (f : TxFrame) : Bool := f.body.isCondition && !f.started

/-- R16: a new frame's mark for a line. -/
def Line.freshMark (x : Line) : Mark := if x.monitored then .pending else .abandoned

/-- The three ways an offer is decided (R16). -/
inductive OfferDecision where
  | refused
  | replaced
  | appended
  deriving DecidableEq, Repr

/-- R16: the decision of an offer. -/
def State.offerDecision (b : Body) (s : State) : OfferDecision :=
  if s.straps.listenOnly || !s.running then .refused
  else if s.lineA.st = .down ∧ s.lineB.st = .down then .refused
  else if b.isCondition && s.txQueue.any TxFrame.replaceable then .replaced
  else if 16 ≤ s.txQueue.length then .refused
  else .appended

/-- The producer is told that its frame was taken. -/
def State.takes (b : Body) (s : State) : Bool := decide (s.offerDecision b ≠ .refused)

/-- A new frame: own counter's value, not started, marks from the line states (R1, R16). -/
def State.newFrame (b : Body) (refresh prompt : Bool) (s : State) : TxFrame :=
  { seq := s.ownSeq, refresh := refresh, prompt := prompt, body := b, started := false, markA := s.lineA.freshMark,
    markB := s.lineB.freshMark, curA := false, curB := false }

/-- The own sequence counter after a new frame (R1). -/
def State.nextSeq (s : State) : Nat := (s.ownSeq + 1) % 256

/-- R16, R17: a producer's offer, decided at once. A replacing frame is current where the old one was (R17). -/
def State.offer (b : Body) (refresh prompt : Bool) (s : State) : State :=
  match s.offerDecision b with
  | .refused => s
  | .replaced =>
    { s with
      txQueue := dropFinished (s.txQueue.map fun f =>
        if f.replaceable then { s.newFrame b refresh prompt with curA := f.curA, curB := f.curB } else f)
      ownSeq := s.nextSeq }
  | .appended =>
    { s with txQueue := dropFinished (s.txQueue ++ [s.newFrame b refresh prompt]), ownSeq := s.nextSeq }

/-- R2: an indication sets the mark of a line in UP or CHECK whose beacon is not its engine's current frame. -/
def Line.takesBeacon (x : Line) : Bool := x.monitored && !x.beaconCurrent

/-- The line with its mark set for the beacon of a sequence number. -/
def Line.withBeacon (seq : Nat) (x : Line) : Line :=
  if x.takesBeacon then { x with beaconDue := true, beaconSeq := seq } else x

/-- R2, R19: a beacon-due indication. -/
def State.beaconIndication (s : State) : State :=
  if s.straps.listenOnly || !s.running then s
  else if s.lineA.takesBeacon || s.lineB.takesBeacon then
    { s with lineA := s.lineA.withBeacon s.ownSeq, lineB := s.lineB.withBeacon s.ownSeq, ownSeq := s.nextSeq }
  else s

/-! ## Answers of the Local Port (R173, R174, R184) -/

/-- Status values of a response (R174). -/
inductive ReqStatus where
  | ok
  | accepted
  | stale
  | full
  | malformed
  | busy
  | refusedMode
  | noSupply
  | supplyPresent
  | locked
  | supplyLost
  | notFound
  deriving DecidableEq, Repr

/-- Status codes (chapter 12, 12.2). -/
def ReqStatus.code : ReqStatus → Nat
  | .ok => 0x00
  | .accepted => 0x01
  | .stale => 0x02
  | .full => 0x03
  | .malformed => 0x04
  | .busy => 0x05
  | .refusedMode => 0x06
  | .noSupply => 0x07
  | .supplyPresent => 0x08
  | .locked => 0x09
  | .supplyLost => 0x0A
  | .notFound => 0x0B

/-- A response: status byte, the code of the request it answers, the request's own data (R173). -/
def responseBytes (st : ReqStatus) (code : Nat) (data : List Byte) : List Byte := byte st.code :: byte code :: data

/-- The response replaces the buffer's content. -/
def LocalPort.answer (st : ReqStatus) (code : Nat) (data : List Byte) (p : LocalPort) : LocalPort :=
  { p with response := responseBytes st code data }

/-- The request in hand completes: its response replaces the buffer's content and the port is READY (R173). -/
def LocalPort.complete (st : ReqStatus) (code : Nat) (data : List Byte) (p : LocalPort) : LocalPort :=
  { p with response := responseBytes st code data, inHand := none }

/-- A request goes into hand: BUSY naming it (R173). -/
def LocalPort.takeInHand (h : InHand) (code : Nat) (p : LocalPort) : LocalPort :=
  { p with response := responseBytes .busy code [], inHand := some h }

/-- `LocalPort.answer` on the state. -/
def State.answer (st : ReqStatus) (code : Nat) (data : List Byte) (s : State) : State :=
  { s with port := s.port.answer st code data }

/-- Allowed in RUN alone (R174). -/
def inRun (m : Mode) : Bool := decide (m = .run)

/-- Allowed in PROGRAM alone (R174). -/
def inProgram (m : Mode) : Bool := decide (m = .program)

/-- Allowed in every mode but START (R174). -/
def inAnyMode (_ : Mode) : Bool := true

/-- R172 to R174: a transaction taken as a request. `formOk`: its body is as long as its code requires. With PORT_EN low no
request is taken; in hand, every request is turned away; otherwise the first case of R174 decides. -/
def State.request (code : Nat) (formOk : Bool) (allowed : Mode → Bool) (act : State → State) (s : State) : State :=
  if !s.straps.portEn then s
  else if s.port.inHand.isSome then s.answer .busy code []
  else if s.mode = .start then s.answer .refusedMode code []
  else if !formOk then s.answer .malformed code []
  else if !allowed s.mode then s.answer .refusedMode code []
  else act s

/-! ## Reading the time -/

/-- Conference time is known while LOCKED or COASTING (R38). -/
def TimeUnit.known (t : TimeUnit) : Bool := decide (t.sync = .locked) || decide (t.sync = .coasting)

/-- A counter reading (R37). -/
def TimeUnit.stamp (t : TimeUnit) : Stamp := { day := t.day, ms := t.ms }

/-- The current minute, 0..1439 (R37). -/
def TimeUnit.minute (t : TimeUnit) : Nat := t.ms / 60000

/-- (a − b) mod 256 for day numbers. -/
def dayAhead (a b : Nat) : Nat := (a + 256 - b % 256) % 256

/-- R46: the signed day difference a − b, −128..+127. -/
def dayDiff (a b : Nat) : Int := if dayAhead a b < 128 then (dayAhead a b : Int) else (dayAhead a b : Int) - 256

/-- R46: the deviation of a time from a timestamp, in signed ms. -/
def deviation (x y : Stamp) : Int := dayDiff x.day y.day * 86400000 + ((x.ms : Int) - (y.ms : Int))

/-- R144: a reading is at or past a moment, the days compared as in R46. -/
def Stamp.atOrPast (now moment : Stamp) : Bool :=
  decide (0 < dayDiff now.day moment.day) || (decide (dayDiff now.day moment.day = 0) && decide (moment.ms ≤ now.ms))

end Sys2Proof.Machine
end

