-- ==== Sys2Proof/Machine/Panel.lean ====
section
/-!
DEFINITION. The Panel Port (chapter 9): offers, deliveries, acknowledge, refresh, fault and PANEL_HOLD.
-/

namespace Sys2Proof.Machine

/-- What a command answers. -/
abbrev Result := Host.Outcome State Fault Refusal

/-- The acknowledge timer's limit, 500 ms (R153). -/
def ackLimit : Nat := 500000

/-- The busy timer's limit, 10 s (R154). -/
def busyLimit : Nat := 10000000

/-- The fault timer's limit, 30 s (R156). -/
def faultLimit : Nat := 30000000

/-- The panel interval in µs (R152). -/
def Settings.intervalTime (st : Settings) : Nat := st.panelInterval * 1000000

/-- R152: the interval has passed; after reset it counts as passed. -/
def PanelPort.passed (limit : Nat) (p : PanelPort) : Bool := p.interval.all (fun t => decide (limit ≤ t))

/-- R152: a delivery starts with the plate of the slot. -/
def PanelPort.startDelivery (plate : Plate) (p : PanelPort) : PanelPort :=
  { p with slot := none, delivery := some plate, attemptSeq := (p.lastAck + 1) % 65536, retry := false,
           st := .sending, clocked := some 0 }

/-- R152: in IDLE, with a plate pending, PANEL_HOLD low and the interval passed, a delivery starts. -/
def PanelPort.examine (limit : Nat) (hold : Bool) (p : PanelPort) : PanelPort :=
  match p.slot with
  | some plate => if p.st = .idle && !hold && p.passed limit then p.startDelivery plate else p
  | none => p

/-- R151: an offer is taken at once into the pending slot, and the conditions of R152 are examined. -/
def PanelPort.offer (limit : Nat) (hold : Bool) (plate : Plate) (p : PanelPort) : PanelPort :=
  { p with slot := some plate }.examine limit hold

/-- R156: a fault attempt starts with the plate of the slot. -/
def PanelPort.startAttempt (plate : Plate) (p : PanelPort) : PanelPort :=
  { p with slot := none, delivery := some plate, attemptSeq := (p.lastAck + 1) % 65536, phase := some .sending,
           clocked := some 0, faultTimer := none, faultDue := false }

/-- R156: a due fault attempt starts if PANEL_HOLD is low. -/
def PanelPort.examineFault (hold : Bool) (p : PanelPort) : PanelPort :=
  match p.slot with
  | some plate => if p.st = .fault && p.faultDue && !hold then p.startAttempt plate else p
  | none => p

/-- The plate is being clocked out: SENDING, or a fault attempt's sending phase. -/
def PanelPort.isSending (p : PanelPort) : Bool :=
  decide (p.st = .sending) || (decide (p.st = .fault) && decide (p.phase = some .sending))

/-- An acknowledge is awaited: AWAIT_ACK, or a fault attempt's awaiting-acknowledge phase. -/
def PanelPort.isAwaiting (p : PanelPort) : Bool :=
  decide (p.st = .awaitAck) || (decide (p.st = .fault) && decide (p.phase = some .awaitAck))

/-- The panel is redrawing: REFRESHING, or a fault attempt's refreshing phase. -/
def PanelPort.isRefreshing (p : PanelPort) : Bool :=
  decide (p.st = .refreshing) || (decide (p.st = .fault) && decide (p.phase = some .refreshing))

/-- R153: the last bit is clocked out. -/
def PanelPort.sent (p : PanelPort) : PanelPort :=
  if p.st = .fault then { p with phase := some .awaitAck, clocked := none, ackTimer := some 0 }
  else { p with st := .awaitAck, clocked := none, ackTimer := some 0 }

/-- R153, R156: an acknowledge. -/
def PanelPort.acked (p : PanelPort) : PanelPort :=
  if p.st = .fault then
    { p with lastAck := p.attemptSeq, ackTimer := none, busyTimer := some 0, phase := some .refreshing }
  else { p with lastAck := p.attemptSeq, ackTimer := none, busyTimer := some 0, st := .refreshing }

/-- R154, R156: the refresh completes. -/
def PanelPort.refreshed (p : PanelPort) : PanelPort :=
  { p with delivery := none, busyTimer := none, interval := some 0, st := .idle, phase := none }

/-- R155, R156: the plate in delivery goes back into an empty slot. -/
def PanelPort.slotBack (p : PanelPort) : Option Plate := if p.slot.isSome then p.slot else p.delivery

/-- R155: FAULT is entered from a delivery. -/
def PanelPort.enterFault (p : PanelPort) : PanelPort :=
  { p with slot := p.slotBack, delivery := none, retry := false, interval := none, ackTimer := none,
           busyTimer := none, faultTimer := some 0, faultDue := false, phase := none, st := .fault }

/-- R156: a fault attempt fails. -/
def PanelPort.failAttempt (p : PanelPort) : PanelPort :=
  { p with slot := p.slotBack, delivery := none, ackTimer := none, busyTimer := none, faultTimer := some 0,
           faultDue := false, phase := none }

/-- R153: the retry: the same plate with the same attempt sequence. -/
def PanelPort.sendAgain (p : PanelPort) : PanelPort :=
  { p with retry := true, st := .sending, ackTimer := none, clocked := some 0 }

/-- R153, R156: the acknowledge timer has reached 500 ms. -/
def PanelPort.ackTimedOut (p : PanelPort) : PanelPort :=
  if p.st = .fault then p.failAttempt else if p.retry then p.enterFault else p.sendAgain

/-- R153, R154, R156: PANEL_FAULT is raised at an entry into FAULT from a delivery, not at a failed attempt. -/
def PanelPort.ackTimeoutFaults (p : PanelPort) : Bool := decide (p.st ≠ .fault) && p.retry

/-- R154, R156: the busy timer has reached 10 s with PANEL_BUSY high. -/
def PanelPort.busyTimedOut (p : PanelPort) : PanelPort := if p.st = .fault then p.failAttempt else p.enterFault

/-- How long until the plate has been clocked out (R185). -/
def PanelPort.clockWait (p : PanelPort) : Option Nat :=
  match p.delivery, p.clocked with
  | some plate, some t => onlyIf p.isSending (some (plateClockTime plate - t))
  | _, _ => none

/-- The bytes being clocked out on PNL_DAT: the plate in delivery with the attempt sequence (R152, R185). -/
def PanelPort.dataOut (p : PanelPort) : Option (List Byte) :=
  if p.isSending then p.delivery.map (encodePlate p.attemptSeq) else none

/-! ## The commands -/

/-- PANEL_INTERVAL_EXPIRY (R152). -/
def execPanelIntervalExpiry (s : State) : Result :=
  .next <| s.after (timerWait s.settings.intervalTime s.panel.interval) fun s =>
    { s with panel := s.panel.examine s.settings.intervalTime s.pins.panelHold }

/-- PLATE_CLOCKED_OUT (R153, R156). -/
def execPlateClockedOut (s : State) : Result :=
  .next <| s.after s.panel.clockWait fun s => { s with panel := s.panel.sent }

/-- PANEL_BUSY stands at a level: low completes a refresh (R154). -/
def PanelPort.busyLevel (busy : Bool) (limit : Nat) (hold : Bool) (p : PanelPort) : PanelPort :=
  if p.isRefreshing && !busy then p.refreshed.examine limit hold else p

/-- PANEL_ACK (R153, R154, R156, R179): a rising edge, with the level of PANEL_BUSY at that moment. Outside the awaiting
states the edge is disregarded. -/
def execPanelAck (busy : Bool) (s : State) : Result :=
  let s := { s with pins := { s.pins with panelBusy := busy } }
  .next <|
    if s.panel.isAwaiting then
      { s with
        panel := s.panel.acked.busyLevel busy s.settings.intervalTime s.pins.panelHold
        port := { s.port with delivered := true } }
    else { s with panel := s.panel.busyLevel busy s.settings.intervalTime s.pins.panelHold }

/-- ACK_TIMEOUT (R153, R155, R156). -/
def execAckTimeout (s : State) : Result :=
  .next <| s.after (onlyIf s.panel.isAwaiting (timerWait ackLimit s.panel.ackTimer)) fun s =>
    { s with panel := s.panel.ackTimedOut, port := s.port.raiseIf s.panel.ackTimeoutFaults .panelFault }

/-- PANEL_BUSY_FALL (R154). -/
def execPanelBusyFall (s : State) : Result :=
  .next { s with
    pins := { s.pins with panelBusy := false }
    panel := s.panel.busyLevel false s.settings.intervalTime s.pins.panelHold }

/-- BUSY_TIMEOUT (R154, R155, R156). -/
def execBusyTimeout (s : State) : Result :=
  .next <| s.after (onlyIf (s.panel.isRefreshing && s.pins.panelBusy) (timerWait busyLimit s.panel.busyTimer)) fun s =>
    { s with panel := s.panel.busyTimedOut, port := s.port.raiseIf (decide (s.panel.st ≠ .fault)) .panelFault }

/-- FAULT_TIMER_EXPIRY (R156). -/
def execFaultTimerExpiry (s : State) : Result :=
  .next <| s.after (onlyIf (decide (s.panel.st = .fault)) (timerWait faultLimit s.panel.faultTimer)) fun s =>
    { s with panel := { s.panel with faultTimer := none, faultDue := true }.examineFault s.pins.panelHold }

/-- PANEL_HOLD_FALL (R152, R156, R157). -/
def execPanelHoldFall (s : State) : Result :=
  .next { s with
    pins := { s.pins with panelHold := false }
    panel := (s.panel.examine s.settings.intervalTime false).examineFault false }

/-- PANEL_HOLD_RISE (R157). -/
def execPanelHoldRise (s : State) : Result := .next { s with pins := { s.pins with panelHold := true } }

end Sys2Proof.Machine
end

