-- ==== Sys2Proof/Machine/Composer.lean ====
section
/-!
DEFINITION. The Plate Composer (chapter 8): what invalidates the cache, selection, the composition pass, the kept plate, the
pin set and the valid-until time.
-/

namespace Sys2Proof.Machine

/-! ## Sections and scopes (R129, R132) -/

/-- The station has a nameplate section (R164). -/
def Settings.nameplate (st : Settings) : Bool := decide (st.homeRoom ≠ 0)

/-- The station has a directory section (R164). -/
def Settings.directorySection (st : Settings) : Bool := !st.directory.isEmpty

/-- The station has a section. -/
def Settings.hasSection (st : Settings) : Bool := st.nameplate || st.directorySection

/-- A room set holds the home room, where there is one. -/
def Settings.homeIn (st : Settings) (rooms : List Nat) : Bool := st.nameplate && rooms.contains st.homeRoom

/-- A room set holds a room of an in-use directory slot. -/
def Settings.directoryIn (st : Settings) (rooms : List Nat) : Bool := rooms.any st.directory.contains

/-- R132: in nameplate scope. -/
def SessionRecord.nameplateScope (st : Settings) (r : SessionRecord) : Bool := st.homeIn r.rooms

/-- R132: in directory scope. -/
def SessionRecord.directoryScope (st : Settings) (r : SessionRecord) : Bool := r.plenary || st.directoryIn r.rooms

/-- A session's start, in ms of its day. -/
def SessionRecord.startMs (r : SessionRecord) : Nat := r.startMin * 60000

/-- A session's end, in ms from the midnight that begins its day. -/
def SessionRecord.endMs (r : SessionRecord) : Nat := r.endMin * 60000

/-- R132: current at now. -/
def SessionRecord.currentAt (now : Nat) (r : SessionRecord) : Bool := decide (r.startMs ≤ now) && decide (now < r.endMs)

/-- R132: upcoming at now. -/
def SessionRecord.upcomingAt (now : Nat) (r : SessionRecord) : Bool := decide (now < r.startMs)

/-- The key is greater: publisher id, then session number (R133). -/
def SessionRecord.keyAbove (x y : SessionRecord) : Bool :=
  decide (y.publisher < x.publisher) || (decide (x.publisher = y.publisher) && decide (y.number < x.number))

/-- The key. -/
def SessionRecord.key (r : SessionRecord) : Nat × Nat := (r.publisher, r.number)

/-- The one that no later element is better than; of elements none of which is better, the earliest in the list. -/
def pickBest {α : Type} (better : α → α → Bool) (l : List α) : Option α :=
  l.foldl (fun acc x => match acc with
    | none => some x
    | some b => if better x b then some x else some b) none

/-- Insert before the first element that it precedes. -/
def insertBy {α : Type} (precedes : α → α → Bool) (x : α) : List α → List α
  | [] => [x]
  | y :: ys => if precedes x y then x :: y :: ys else y :: insertBy precedes x ys

/-- Sorted by a precedence. -/
def sortBy {α : Type} (precedes : α → α → Bool) (l : List α) : List α :=
  l.foldr (insertBy precedes) []

/-- A room joins an ascending list of rooms, once. -/
def joinRoom (r : Nat) : List Nat → List Nat
  | [] => [r]
  | x :: xs => if r < x then r :: x :: xs else if r = x then x :: xs else x :: joinRoom r xs

/-- Rooms as an ascending list, each once. -/
def roomSet (rooms : List Nat) : List Nat := rooms.foldr joinRoom []

/-! ## Reports and invalidation (R141 to R146) -/

/-- A change report of the Session Table (R82): the key, and room set and PLENARY flag before and after. -/
structure SessionReport where
  key : Nat × Nat
  before : Option (List Nat × Bool)
  after : Option (List Nat × Bool)
  deriving DecidableEq, Repr

/-- A route change report (R107): the room, and that its entry's bests have changed, with the two new ones, or that the entry has
been removed. -/
inductive RouteReport where
  | changed (room : Nat) (any level : Best)
  | removed (room : Nat)
  deriving DecidableEq, Repr

/-- The room a route change report names. -/
def RouteReport.room : RouteReport → Nat
  | .changed room _ _ => room
  | .removed room => room

/-- R132: the readings a pass takes at its start. -/
def State.passNow (s : State) : Pass :=
  { known := s.time.known, moment := s.time.stamp, closed := s.zones.aggClosed, notice := s.zones.aggNotice,
    slots := [], routes := [] }

/-- R145, R146: an invalidating event; `p` is the new pass. -/
def Composer.invalidate (p : Pass) (c : Composer) : Composer :=
  match c.st with
  | .valid => { c with st := .composing, pass := some p }
  | .composing =>
    if c.discard + 1 < 3 then { c with discard := c.discard + 1, pass := some p }
    else { c with discard := 3, st := .finalPass, pass := some p }
  | .finalPass => { c with late := true }
  | .idle => c
  | .fixed => c

/-- An invalidating event if a condition holds. -/
def Composer.invalidateIf (b : Bool) (p : Pass) (c : Composer) : Composer := if b then c.invalidate p else c

/-- R141: one side of a session report concerns the plate. -/
def Settings.sideConcerns (st : Settings) (side : Option (List Nat × Bool)) : Bool :=
  match side with
  | none => false
  | some (rooms, plenary) => st.homeIn rooms || st.directoryIn rooms || (plenary && st.directorySection)

/-- R141: a session report invalidates. -/
def Composer.hitBySession (st : Settings) (c : Composer) (r : SessionReport) : Bool :=
  c.cache.any (fun k => k.keys.contains r.key) || st.sideConcerns r.before || st.sideConcerns r.after

/-- R141, R82: the reports of one operation, in order. -/
def Composer.onSessions (st : Settings) (p : Pass) (rs : List SessionReport) (c : Composer) : Composer :=
  rs.foldl (fun c r => c.invalidateIf (c.hitBySession st r) p) c

/-- R142, R146: a route change report for a room invalidates. -/
def Composer.hitByRoute (c : Composer) (room : Nat) : Bool :=
  c.cache.any (fun k => k.rooms.contains room) || c.pass.any (fun p => p.routes.any fun v => decide (v.room = room))

/-- R107, R142: route change reports, in order. The Composer decides from the room. -/
def Composer.onRoutes (p : Pass) (rs : List RouteReport) (c : Composer) : Composer :=
  rs.foldl (fun c r => c.invalidateIf (c.hitByRoute r.room) p) c

/-- A zone is set in a vector. -/
def zoneSet (v : ZoneVec) (zone : Nat) : Bool := v.getLsbD zone

/-- The own zone's bits of the two vectors. -/
def zoneBitsOf (st : Settings) (closed notice : ZoneVec) : Bool × Bool := (zoneSet closed st.zone, zoneSet notice st.zone)

/-- R139: the own-zone bits of a dependency record, which a station without a section has none of. -/
def ownBits (st : Settings) (closed notice : ZoneVec) : Option (Bool × Bool) :=
  if st.hasSection then some (zoneBitsOf st closed notice) else none

/-- R143, R146: a vector report invalidates: an own-zone bit differs from the cached plate's, if it has them, or from the bit that the
running pass took at its start, at any station. -/
def Composer.hitByZones (st : Settings) (closed notice : ZoneVec) (c : Composer) : Bool :=
  let bits := zoneBitsOf st closed notice
  c.cache.any (fun k => k.zoneBits.any fun b => decide (b ≠ bits))
    || c.pass.any (fun p => decide (zoneBitsOf st p.closed p.notice ≠ bits))

/-- R127, R143: a report of the Condition List; the new pass has read the reported vectors. -/
def Composer.onZones (st : Settings) (p : Pass) (c : Composer) : Composer :=
  c.invalidateIf (c.hitByZones st p.closed p.notice) p

/-- R144: the valid-until time has been reached and has not yet invalidated this cache. -/
def Composer.validUntilHit (now : Stamp) (c : Composer) : Bool :=
  c.cache.any fun k => !k.validUntilReached && k.validUntil.any now.atOrPast

/-- The reached valid-until time is marked. -/
def Composer.markReached (now : Stamp) (c : Composer) : Composer :=
  { c with cache := c.cache.map fun k =>
      { k with validUntilReached := k.validUntilReached || k.validUntil.any now.atOrPast } }

/-- A moment's day and minute lie before another's, the days compared as in R46 (R144). -/
def Stamp.minuteBefore (x y : Stamp) : Bool :=
  decide (dayDiff x.day y.day < 0) || (decide (dayDiff x.day y.day = 0) && decide (x.ms / 60000 < y.ms / 60000))

/-- R144: a minute event before the cached plate's pass moment, while the cache has a valid-until time. -/
def Composer.hitByMinute (now : Stamp) (c : Composer) : Bool :=
  c.cache.any fun k => k.validUntil.isSome && now.minuteBefore k.passMoment

/-- R144: the valid-until time reached by an adjustment invalidates, once. -/
def Composer.reachIf (moved : Bool) (p : Pass) (c : Composer) : Composer :=
  if moved then (c.invalidateIf (c.validUntilHit p.moment) p).markReached p.moment else c

/-- R143, R144, R146: what one event of the Time Unit brings the Composer, each an invalidating event of its own: an adjustment that
reaches the valid-until time (`moved`: the reading has changed), the minute event it gives, and at the end the report (`told`). -/
def Composer.onTime (moved minute told : Bool) (p : Pass) (c : Composer) : Composer :=
  let c := c.reachIf moved p
  (c.invalidateIf (minute && c.hitByMinute p.moment) p).invalidateIf told p

/-! ## Selection (R132 to R136) -/

/-- R132: the entries of today that are not tombstones. -/
def Pass.today (p : Pass) : List SessionRecord :=
  (p.slots.filterMap fun v => v.map (·.record)).filter fun r =>
    decide (r.status ≠ .withdrawn) && decide (r.day = p.moment.day)

/-- What a pass selects. -/
structure Selection where
  current : Option SessionRecord
  next : Option SessionRecord
  directory : List SessionRecord
  deriving DecidableEq, Repr

/-- R133: latest start, then the greater key. -/
def betterCurrent (x y : SessionRecord) : Bool :=
  decide (y.startMin < x.startMin) || (decide (x.startMin = y.startMin) && x.keyAbove y)

/-- R134: earliest start, then the greater key. -/
def betterNext (x y : SessionRecord) : Bool :=
  decide (x.startMin < y.startMin) || (decide (x.startMin = y.startMin) && x.keyAbove y)

/-- The lowest room number of a room set. -/
def lowestRoom (rooms : List Nat) : Nat := rooms.foldl min (rooms.headD 0)

/-- R136: start, lowest room number, then key in ascending order. -/
def directoryPrecedes (x y : SessionRecord) : Bool :=
  decide (x.startMin < y.startMin) || (decide (x.startMin = y.startMin) &&
    (decide (lowestRoom x.rooms < lowestRoom y.rooms) ||
      (decide (lowestRoom x.rooms = lowestRoom y.rooms) && y.keyAbove x)))

/-- R136: current, or upcoming within the look-ahead. -/
def SessionRecord.listable (st : Settings) (now : Nat) (r : SessionRecord) : Bool :=
  r.currentAt now || (r.upcomingAt now && decide (r.startMs ≤ now + st.lookAhead * 60000))

/-- R133, R134, R136: the lines a pass with known time selects. A plate has directory lines with a directory section alone (R129). Of two
records of one key with one start, which a pass can read at different moments, DESIGN CHOICE: the lower slot's is the current or next
line, and the directory lists both, the later slot's first where the lowest room numbers are equal too (log entry 45). -/
def select (st : Settings) (p : Pass) : Selection :=
  { current := pickBest betterCurrent
      (p.today.filter fun r => r.nameplateScope st && r.currentAt p.moment.ms)
    next := pickBest betterNext (p.today.filter fun r => r.nameplateScope st && r.upcomingAt p.moment.ms)
    directory := (sortBy directoryPrecedes (p.today.filter fun r =>
      st.directorySection && r.directoryScope st && r.listable st p.moment.ms)).take 8 }

/-- The records the plate shows. -/
def Selection.shown (x : Selection) : List SessionRecord := x.current.toList ++ x.next.toList ++ x.directory

/-- The moved-to room of a MOVED record's line (R135). -/
def SessionRecord.movedRoom (r : SessionRecord) : Option Nat := if r.status = .moved then r.movedTo else none

/-- The room a directory line's route part is for (R136). -/
def SessionRecord.targetRoom (r : SessionRecord) : Nat := r.movedRoom.getD (r.rooms.headD 0)

/-- R145: the rooms whose entries the pass reads, one for each route part, in line order. -/
def Selection.partRooms (x : Selection) : List Nat :=
  (x.current.bind (·.movedRoom)).toList ++ (x.next.bind (·.movedRoom)).toList ++ x.directory.map (·.targetRoom)

/-- R134: the countdown in minutes, if it lies in 1..60. -/
def countdown (now start : Nat) : Option Nat :=
  let m := (start - now + 59999) / 60000
  if 1 ≤ m && m ≤ 60 then some m else none

/-! ## Route parts (R98, R131) -/

/-- R98: the displayed distance of a finite best in metres; 0 is "here". -/
def displayedDistance (c : Nat) : Nat := if c = 0 then 0 else max 10 (10 * ((c + 5) / 10))

/-- R131. -/
def RouteView.state (v : RouteView) : RouteState :=
  match v.any.cost, v.any.link with
  | .finite _ _, some _ => .glyph v.anyGlyph
  | .finite _ _, none => .thisRoom
  | .closed _, _ => .closed
  | .unknown, _ => .noRouteYet
  | .unreachable, _ => .askStaff

/-- R131: the step-free marker from the LEVEL best together with the ANY best. -/
def RouteView.stepFree (v : RouteView) : StepFree :=
  match v.level.cost with
  | .finite _ _ => if v.level.link = v.any.link then .same else .otherWay v.levelGlyph
  | _ => .noneKnown

/-- R131: a route part. -/
def RouteView.part (v : RouteView) : RoutePart :=
  { state := v.state
    distance := match v.any.cost with
      | .finite m _ => some (displayedDistance m)
      | _ => none
    stepFree := v.stepFree }

/-! ## The plate (R129, R130, R137) -/

/-- R135: the status marker. -/
def Status.marker : Status → Marker
  | .normal => .none
  | .full => .full
  | .cancelled => .cancelled
  | .moved => .moved
  | .withdrawn => .none

/-- A current line; `part` is the moved-to room's. -/
def currentLine (r : SessionRecord) (part : Option RoutePart) : SessionLine :=
  { publisher := r.publisher, number := r.number, title := r.title, track := r.track, speaker := r.speaker,
    startMin := r.startMin, endMin := r.endMin, marker := r.status.marker, room := none, movedTo := r.movedRoom,
    part := part, countdown := none }

/-- A next line. -/
def nextLine (now : Nat) (r : SessionRecord) (part : Option RoutePart) : SessionLine :=
  { publisher := r.publisher, number := r.number, title := r.title, track := none, speaker := none,
    startMin := r.startMin, endMin := 0, marker := r.status.marker, room := none, movedTo := r.movedRoom,
    part := part, countdown := countdown now r.startMs }

/-- A directory line. -/
def directoryLine (r : SessionRecord) (part : Option RoutePart) : SessionLine :=
  { publisher := r.publisher, number := r.number, title := r.title, track := none, speaker := none,
    startMin := r.startMin, endMin := r.endMin, marker := r.status.marker, room := r.rooms.head?,
    movedTo := r.movedRoom, part := part, countdown := none }

/-- The route parts in line order. -/
def Pass.parts (p : Pass) : List RoutePart := p.routes.map (·.part)

/-- How many route parts a line other than a directory line has. -/
def partCount (r : Option SessionRecord) : Nat := if (r.bind (·.movedRoom)).isSome then 1 else 0

/-- The part at a place, if the line has one. -/
def partAt (parts : List RoutePart) (i : Nat) (r : SessionRecord) : Option RoutePart :=
  if r.movedRoom.isSome then parts[i]? else none

/-- R133: the combined-with list. -/
def combinedWith (st : Settings) (current : Option SessionRecord) : List Nat :=
  match current with
  | some r => r.rooms.filter (fun x => decide (x ≠ st.homeRoom))
  | none => []

/-- R129, R137: the plate's header for a station with a section. -/
def plateHeader (st : Settings) (p : Pass) : RunPlate :=
  { stationId := st.stationId, nameplate := st.nameplate, directory := st.directorySection, awaitingTime := !p.known,
    areaClosed := zoneSet p.closed st.zone, attention := zoneSet p.notice st.zone, roomName := st.roomName,
    homeRoom := st.homeRoom, combined := [], current := none, next := none, lines := [] }

/-- R129: the plate of a station with neither section. -/
def stationIdPlate (st : Settings) : RunPlate :=
  { stationId := st.stationId, nameplate := false, directory := false, awaitingTime := false, areaClosed := false,
    attention := false, roomName := [], homeRoom := 0, combined := [], current := none, next := none, lines := [] }

/-- The lines of a directory with their parts. -/
def directoryLines (rs : List SessionRecord) (parts : List RoutePart) : List SessionLine :=
  rs.zipIdx.map fun (r, i) => directoryLine r parts[i]?

/-- The plate of a pass with known time at a station with a section. -/
def platedSelection (st : Settings) (p : Pass) (x : Selection) : RunPlate :=
  let n := partCount x.current
  let k := n + partCount x.next
  { plateHeader st p with
    combined := combinedWith st x.current
    current := x.current.map fun r => currentLine r (partAt p.parts 0 r)
    next := x.next.map fun r => nextLine p.moment.ms r (partAt p.parts n r)
    lines := directoryLines x.directory (p.parts.drop k) }

/-- The pass makes reads: known time and a section (R145). -/
def Pass.reads (st : Settings) (p : Pass) : Bool := p.known && st.hasSection

/-- The lines the pass selects: none where it makes no reads. -/
def Pass.selection (st : Settings) (p : Pass) : Selection :=
  if p.reads st then select st p else { current := none, next := none, directory := [] }

/-- The plate a pass composes. -/
def Pass.plate (st : Settings) (p : Pass) : Plate :=
  .run (if !st.hasSection then stationIdPlate st
    else if !p.known then plateHeader st p
    else platedSelection st p (p.selection st))

/-! ## Valid-until time and pin set (R138, R140) -/

/-- R140: the moments at which the plate may read otherwise, in ms from the midnight that begins today. -/
def Pass.moments (st : Settings) (p : Pass) : List Nat :=
  let now := p.moment.ms
  let x := p.selection st
  let inScope := p.today.filter fun r => r.nameplateScope st || r.directoryScope st
  let beyond := p.today.filter fun r =>
    r.directoryScope st && r.upcomingAt now && decide (now + st.lookAhead * 60000 < r.startMs)
  (match x.next with
    | some r => if (countdown now r.startMs).isSome then [(now / 60000 + 1) * 60000] else [r.startMs - 3600000]
    | none => [])
    ++ inScope.map (·.startMs) ++ inScope.map (·.endMs) ++ beyond.map (fun r => r.startMs - st.lookAhead * 60000)
    ++ [dayMs]

/-- R140: the earliest of those after the pass moment. -/
def Pass.validUntil (st : Settings) (p : Pass) : Option Stamp :=
  if p.reads st then
    (pickBest (fun x y => decide (x < y)) ((p.moments st).filter fun m => decide (p.moment.ms < m))).map fun m =>
      if dayMs ≤ m then { day := (p.moment.day + 1) % 256, ms := m - dayMs } else { day := p.moment.day, ms := m }
  else none

/-- R138: the pin set of the plate. -/
def Selection.pins (x : Selection) : List Nat :=
  roomSet (x.shown.flatMap fun r => r.movedRoom.toList ++ (if r.plenary then r.rooms else []))

/-- R139: the cache a kept pass leaves. -/
def Pass.cache (st : Settings) (p : Pass) : Cache :=
  { plate := p.plate st
    keys := (p.selection st).shown.map (·.key)
    rooms := roomSet (p.routes.map (·.room))
    zoneBits := ownBits st p.closed p.notice
    passMoment := p.moment
    validUntil := p.validUntil st
    validUntilReached := false }

/-! ## The pass (R145, R147) -/

/-- The pass has a slot of the Session Table still to read. -/
def Pass.wantsSlot (st : Settings) (p : Pass) : Bool := p.reads st && decide (p.slots.length < 64)

/-- The next room whose Route Table entry the pass has to read, once the slots are read. -/
def Pass.wantsRoute (st : Settings) (p : Pass) : Option Nat :=
  if p.reads st && !p.wantsSlot st then ((p.selection st).partRooms.drop p.routes.length).head? else none

/-- The pass has made its reads. -/
def Pass.complete (st : Settings) (p : Pass) : Bool := !p.wantsSlot st && (p.wantsRoute st).isNone

/-- The Composer has asked for a Session Table entry (R79). -/
def State.composerWantsSlot (s : State) : Bool := s.composer.pass.any (·.wantsSlot s.settings)

/-- The room of the Route Table entry the Composer has asked for. -/
def State.composerWantsRoute (s : State) : Option Nat := s.composer.pass.bind (·.wantsRoute s.settings)

/-- R145: the counter has already reached the valid-until time that the pass has formed. -/
def Pass.overtaken (st : Settings) (now : Stamp) (p : Pass) : Bool := (p.validUntil st).any now.atOrPast

/-- R147: the Composer after a kept pass `p`; `late`: the late mark; `fresh`: the pass that begins if it is set. A valid-until
time already reached at the end of a final pass has had its effect in the late mark (R145; log entry 13). -/
def Composer.keep (st : Settings) (p fresh : Pass) (late : Bool) : Composer :=
  { st := if late then .composing else .valid
    cache := some { p.cache st with validUntilReached := p.overtaken st fresh.moment }
    offered := some (p.plate st)
    pinSet := (p.selection st).pins
    discard := 0
    late := false
    pass := if late then some fresh else none }

/-- R138: a new pin set is sent to the Route Engine, where it waits (R101). -/
def RouteEngine.sendPins (pins old : List Nat) (e : RouteEngine) : RouteEngine :=
  if pins = old then e else { e with pinJob := some pins }

/-- R147 step 4: a plate that differs from the plate last offered is offered to the Panel Port. -/
def State.offerPlate (plate : Plate) (s : State) : PanelPort :=
  if s.composer.offered = some plate then s.panel
  else s.panel.offer s.settings.intervalTime s.pins.panelHold plate

/-- R147: a pass is kept. -/
def State.keepPass (p : Pass) (late : Bool) (s : State) : State :=
  { s with
    routes := s.routes.sendPins (p.selection s.settings).pins s.composer.pinSet
    panel := s.offerPlate (p.plate s.settings)
    composer := Composer.keep s.settings p s.passNow late }

/-- R145 to R147: the pass ends. In COMPOSING, an overtaken pass counts as invalidated and is abandoned; in FINAL_PASS it sets
the late mark. -/
def State.endPass (p : Pass) (s : State) : State :=
  if p.overtaken s.settings s.time.stamp && decide (s.composer.st = .composing) then
    { s with composer := s.composer.invalidate s.passNow }
  else s.keepPass p (s.composer.late || p.overtaken s.settings s.time.stamp)

/-! ## The commands -/

/-- µs until the counter has gained so many units of 10⁻⁹ ms; none while it is held. -/
def TimeUnit.unitsWait (u : Nat) (t : TimeUnit) : Option Nat :=
  onlyIf (decide (t.sync ≠ .free)) (some ((u + t.rate - 1) / t.rate))

/-- µs until the counter reaches a moment; 0 if it has. -/
def TimeUnit.momentWait (m : Stamp) (t : TimeUnit) : Option Nat :=
  if t.stamp.atOrPast m then some 0
  else t.unitsWait ((dayAhead m.day t.day * dayMs + m.ms) * msUnits - (t.ms * msUnits + t.frac))

/-- When the cached plate's valid-until time is reached (R144). -/
def State.validUntilWait (s : State) : Option Nat :=
  match s.composer.cache with
  | some k =>
    match k.validUntil with
    | some v => onlyIf (!k.validUntilReached && s.running) (s.time.momentWait v)
    | none => none
  | none => none

/-- VALID_UNTIL_REACHED (R144, R145, R146). -/
def execValidUntilReached (s : State) : Result :=
  .next <| s.after s.validUntilWait fun s =>
    { s with composer := (s.composer.markReached s.time.stamp).invalidate s.passNow }

/-- PASS_END (R145, R147). It comes about once the running pass has made its reads. -/
def execPassEnd (s : State) : Result :=
  .next <|
    match s.composer.pass with
    | some p => if p.complete s.settings then s.endPass p else s
    | none => s

end Sys2Proof.Machine
end

