-- ==== Sys2Proof/Machine/Sessions.lean ====
section
/-!
DEFINITION. The Session Table (chapter 4): merge by version, eviction, tombstones, housekeeping, refresh, local posts, the port
arbiter and reads. Times are table-clock readings in µs.
-/

namespace Sys2Proof.Machine

/-! ## Entries -/

/-- R62: the refresh stagger, (own id mod 16) × 250 ms. -/
def refreshStagger (own : Nat) : Nat := own % 16 * 250000

/-- R68: the repair stagger, (own id mod 4) × 250 ms. -/
def repairStagger (own : Nat) : Nat := own % 4 * 250000

/-- R62, R66, R74: the next refresh time set at a moment: 60 s and the refresh stagger later. -/
def refreshFrom (own moment : Nat) : Nat := moment + 60000000 + refreshStagger own

/-- R68: the repair time set at a moment: 1 s and the repair stagger later. -/
def repairFrom (own moment : Nat) : Nat := moment + 1000000 + repairStagger own

/-- R61, R71: a tombstone lives 10 min from its arrival. -/
def tombstoneLife : Nat := 600000000

/-- R74, R78, R114, R116, R126: a refused frame is offered again after 1 s. -/
def retryTime : Nat := 1000000

/-- R61: the entry is a tombstone. -/
def SessionEntry.isTombstone (e : SessionEntry) : Bool := decide (e.record.status = .withdrawn)

/-- R71: the table clock has passed the expiry time (reached it: chapter 4, 4.13, step 12). -/
def SessionEntry.expired (clock : Nat) (e : SessionEntry) : Bool := e.expiry.any fun t => decide (t ≤ clock)

/-- R62: home room in the room set, or origin LOCAL, and not an expired tombstone. -/
def SessionEntry.refreshable (st : Settings) (clock : Nat) (e : SessionEntry) : Bool :=
  (st.homeIn e.record.rooms || e.isLocal) && !(e.isTombstone && e.expired clock)

/-- R61: the arrival time of a merge: the table-clock reading, or, where a held entry has that reading or a later one already, the
next µs after the latest. So no two entries share one (log entry 34). -/
def SessionTable.arrivalNow (tb : SessionTable) : Nat := tb.entries.foldl (fun t e => max t (e.arrival + 1)) tb.clock

/-- R62, R64, R65: an entry as an insertion or a replacement leaves it. -/
def newEntry (st : Settings) (arrival slot : Nat) (r : SessionRecord) (isLocal : Bool) : SessionEntry :=
  { slot := slot, record := r, arrival := arrival, isLocal := isLocal
    nextRefresh := if st.homeIn r.rooms || isLocal then some (refreshFrom st.stationId arrival) else none
    expiry := if r.status = .withdrawn then some (arrival + tombstoneLife) else none }

/-- The entry in a slot. -/
def SessionTable.atSlot (slot : Nat) (tb : SessionTable) : Option SessionEntry :=
  tb.entries.find? fun e => decide (e.slot = slot)

/-- The entry with a key. -/
def SessionTable.holding (key : Nat × Nat) (tb : SessionTable) : Option SessionEntry :=
  tb.entries.find? fun e => decide (e.record.key = key)

/-- R61: the lowest-numbered empty slot. -/
def SessionTable.freeSlot (tb : SessionTable) : Option Nat :=
  (List.range 64).find? fun i => !tb.entries.any fun e => decide (e.slot = i)

/-- R81: an entry whose mark is clear joins the end of the order; one whose mark is set keeps its place. -/
def markChanged (slot : Nat) (order : List Nat) : List Nat := if order.contains slot then order else order ++ [slot]

/-- R74: a request of the refresh scan for the slot is dropped. -/
def dropRequest (slot : Nat) (reqs : List (Nat × Nat)) : List (Nat × Nat) := reqs.filter fun q => decide (q.2 ≠ slot)

/-- The slot's entry removed, with its changed mark (R69, R72, R81) and with its refresh request, so that nothing is offered for it, nor in
its place for an entry that comes into the slot later (R74). -/
def SessionTable.remove (slot : Nat) (tb : SessionTable) : SessionTable :=
  { tb with
    entries := tb.entries.filter fun e => decide (e.slot ≠ slot)
    changed := tb.changed.filter fun i => decide (i ≠ slot)
    refreshReqs := dropRequest slot tb.refreshReqs }

/-- An entry placed last in arrival order, its changed mark set; the slot's old entry is gone. -/
def SessionTable.place (e : SessionEntry) (tb : SessionTable) : SessionTable :=
  { tb with
    entries := (tb.entries.filter fun x => decide (x.slot ≠ e.slot)) ++ [e]
    changed := markChanged e.slot tb.changed }

/-- The entry in a slot with a new next refresh time. -/
def SessionTable.setRefresh (slot : Nat) (t : Option Nat) (tb : SessionTable) : SessionTable :=
  { tb with entries := tb.entries.map fun e => if e.slot = slot then { e with nextRefresh := t } else e }

/-! ## Eviction (R69) -/

/-- R69 step 3: an entry that has ended. -/
def SessionEntry.ended (now : Stamp) (e : SessionEntry) : Bool :=
  !e.isTombstone &&
    ((decide (1 ≤ dayAhead now.day e.record.day) && decide (dayAhead now.day e.record.day ≤ 127))
      || (decide (e.record.day = now.day) && decide (e.record.endMs ≤ now.ms)))

/-- R69 step 3: its end lies further back. -/
def endedBefore (now : Stamp) (x y : SessionEntry) : Bool :=
  decide (dayAhead now.day y.record.day < dayAhead now.day x.record.day)
    || (decide (dayAhead now.day x.record.day = dayAhead now.day y.record.day)
        && decide (x.record.endMin < y.record.endMin))

/-- R69 step 4: an entry away from home that starts later than the arriving record. -/
def SessionEntry.laterThan (st : Settings) (r : SessionRecord) (e : SessionEntry) : Bool :=
  !e.isTombstone && !st.homeIn e.record.rooms &&
    ((decide (1 ≤ dayAhead e.record.day r.day) && decide (dayAhead e.record.day r.day ≤ 127))
      || (decide (e.record.day = r.day) && decide (r.startMin < e.record.startMin)))

/-- R69 step 4: it starts later, or as late with a later arrival (the list is in arrival order). -/
def startsLater (r : SessionRecord) (x y : SessionEntry) : Bool :=
  decide (dayAhead y.record.day r.day < dayAhead x.record.day r.day)
    || (decide (dayAhead x.record.day r.day = dayAhead y.record.day r.day)
        && decide (y.record.startMin ≤ x.record.startMin))

/-- R69: the entry chosen for eviction, if a step finds one. -/
def SessionTable.victim (st : Settings) (t : TimeUnit) (r : SessionRecord) (tb : SessionTable) : Option SessionEntry :=
  (tb.entries.find? fun e => e.isTombstone && e.expired tb.clock)
    <|> tb.entries.find? SessionEntry.isTombstone
    <|> (if t.known then pickBest (endedBefore t.stamp) (tb.entries.filter (·.ended t.stamp)) else none)
    <|> (if r.status ≠ .withdrawn then pickBest (startsLater r) (tb.entries.filter (·.laterThan st r)) else none)

/-! ## Housekeeping (R72, R73) -/

/-- R72: an entry that the pass of day `d`, minute `m` removes. -/
def SessionEntry.removable (d m clock : Nat) (e : SessionEntry) : Bool :=
  if e.isTombstone then e.expired clock
  else (decide (1 ≤ dayAhead d e.record.day) && decide (dayAhead d e.record.day ≤ 127))
    || (decide (e.record.day = d) && decide (e.record.endMin + 30 ≤ m))

/-- R72: the entry of the lowest slot not yet passed that the pass removes. -/
def SessionTable.removal (p : HousekeepingPass) (tb : SessionTable) : Option SessionEntry :=
  pickBest (fun x y => decide (x.slot < y.slot))
    (tb.entries.filter fun e => decide (p.next ≤ e.slot) && e.removable p.day p.minute tb.clock)

/-- The pass at the slot of its next removal, or none where it has nothing more to remove and so ends. -/
def SessionTable.passOn (p : HousekeepingPass) (tb : SessionTable) : Option HousekeepingPass :=
  (tb.removal p).map fun e => { p with next := e.slot }

/-- R73: a waiting pass starts. -/
def SessionTable.startWaiting (tb : SessionTable) : SessionTable :=
  match tb.waiting with
  | none => { tb with running := none }
  | some (d, m) => { tb with running := tb.passOn { day := d, minute := m, next := 0 }, waiting := none }

/-- R72, R73: a running pass moves on to its next removal; where there is none it ends and a waiting pass starts. -/
def SessionTable.settle (tb : SessionTable) : SessionTable :=
  match tb.running with
  | none => tb.startWaiting
  | some p =>
    match tb.passOn p with
    | some p => { tb with running := some p }
    | none => tb.startWaiting

/-- R72, R73: a minute event. -/
def SessionTable.minuteEvent (known : Bool) (d m : Nat) (tb : SessionTable) : SessionTable :=
  if !known then tb
  else if tb.running.isSome then { tb with waiting := some (d, m) }
  else { tb with waiting := some (d, m) }.settle

/-! ## Merge (R63 to R70) -/

/-- The courses of a merge (R63), and refusal (R70). -/
inductive Course where
  | insert
  | replace
  | hearing
  | conflict
  | stale
  | refused
  deriving DecidableEq, Repr

/-- What a merge comes to. -/
structure MergeOut where
  table : SessionTable
  course : Course
  reports : List SessionReport
  notices : BitVec 16
  deriving DecidableEq, Repr

/-- One side of a change report (R82). -/
def SessionRecord.side (r : SessionRecord) : List Nat × Bool := (r.rooms, r.plenary)

/-- R82: the report of an insertion. -/
def insertedReport (r : SessionRecord) : SessionReport := { key := r.key, before := none, after := some r.side }

/-- R82: the report of a removal. -/
def removedReport (r : SessionRecord) : SessionReport := { key := r.key, before := some r.side, after := none }

/-- R64, R70: insertion of a record whose key is not held. -/
def SessionTable.insert (st : Settings) (t : TimeUnit) (r : SessionRecord) (isLocal : Bool) (tb : SessionTable) :
    MergeOut :=
  if tb.entries.length < 64 then
    { table := tb.place (newEntry st tb.arrivalNow (tb.freeSlot.getD 0) r isLocal), course := .insert,
      reports := [insertedReport r], notices := 0 }
  else
    match tb.victim st t r with
    | some v =>
      { table := (tb.remove v.slot).place (newEntry st tb.arrivalNow v.slot r isLocal), course := .insert,
        reports := [removedReport v.record, insertedReport r], notices := 0 }
    | none => { table := tb, course := .refused, reports := [], notices := Notice.sessionTableFull.mask }

/-- R63: a merge. -/
def SessionTable.merge (st : Settings) (t : TimeUnit) (r : SessionRecord) (isLocal : Bool) (tb : SessionTable) :
    MergeOut :=
  match tb.holding r.key with
  | none => tb.insert st t r isLocal
  | some e =>
    if e.record.version < r.version then
      { table := tb.place (newEntry st tb.arrivalNow e.slot r isLocal), course := .replace,
        reports := [{ key := r.key, before := some e.record.side, after := some r.side }], notices := 0 }
    else if r.version = e.record.version then
      if r = e.record then
        { table := if e.refreshable st tb.clock then
            tb.setRefresh e.slot (some (refreshFrom st.stationId tb.clock)) else tb
          course := .hearing, reports := [], notices := 0 }
      else { table := tb, course := .conflict, reports := [], notices := Notice.versionConflict.mask }
    else
      { table := if e.refreshable st tb.clock then
          tb.setRefresh e.slot (some (match e.nextRefresh with
            | some n => min n (repairFrom st.stationId tb.clock)
            | none => repairFrom st.stationId tb.clock)) else tb
        course := .stale, reports := [], notices := 0 }

/-- A merge on the state: the table, the reports to the Composer, the notices. -/
def State.merged (o : MergeOut) (s : State) : State :=
  { s with
    sessions := o.table.settle
    composer := s.composer.onSessions s.settings s.passNow o.reports
    port := s.port.raiseMask o.notices }

/-! ## The port arbiter (R79) -/

/-- The requesters, in the arbiter's order; the fifth by what it makes first. -/
inductive Requester where
  | inboundMerge
  | postingMerge
  | composerRead
  | portRead
  | housekeeping
  | refreshScan
  deriving DecidableEq, Repr

/-- A READ SESSION is in hand. -/
def LocalPort.wantsSession (p : LocalPort) : Bool :=
  match p.inHand with
  | some (.readSession _) => true
  | _ => false

/-- R79: the requester granted when the store is free; every operation is whole, so it is free between commands. -/
def State.grant (s : State) : Option Requester :=
  if s.inbound.head?.any (·.body.isSession) then some .inboundMerge
  else if s.sessions.posting.isSome then some .postingMerge
  else if s.composerWantsSlot then some .composerRead
  else if s.port.wantsSession then some .portRead
  else if s.sessions.running.isSome then some .housekeeping
  else if !s.sessions.refreshReqs.isEmpty then some .refreshScan
  else none

/-! ## The commands -/

/-- INBOUND_MERGE (R34, R63): the head SESSION frame is handed over and its record is merged with origin LINE. -/
def execInboundMerge (s : State) : Result :=
  .next <|
    match s.inbound with
    | f :: rest =>
      match f.body with
      | .session r => { s with inbound := rest }.merged (s.sessions.merge s.settings s.time r false)
      | _ => s
    | [] => s

/-- R77: the result of a posted record by its course. -/
def Course.result : Course → ReqStatus
  | .insert => .accepted
  | .replace => .accepted
  | .hearing => .stale
  | .conflict => .stale
  | .stale => .stale
  | .refused => .full

/-- R78: the announcement of an ACCEPTED post, and the schedule after a refusal. -/
def State.announce (r : SessionRecord) (s : State) : State :=
  let t := s.offer (.session r) false false
  if s.takes (.session r) then t
  else
    match t.sessions.holding r.key with
    | some e => { t with sessions := t.sessions.setRefresh e.slot (some (t.sessions.clock + retryTime)) }
    | none => t

/-- The posting buffer is emptied and POST SESSION completes with a result (R77). -/
def State.postDone (st : ReqStatus) (s : State) : State :=
  { s with sessions := { s.sessions with posting := none }, port := s.port.complete st 0x05 [] }

/-- R77, R78: the merge of a posted record that passes the checks. -/
def State.mergePost (r : SessionRecord) (s : State) : State :=
  let o := s.sessions.merge s.settings s.time r true
  let t := (s.merged o).postDone o.course.result
  if o.course.result = .accepted then t.announce r else t

/-- POSTING_BUFFER_MERGE (R77, R78). -/
def execPostingBufferMerge (s : State) : Result :=
  .next <|
    match s.sessions.posting with
    | some bs =>
      if s.grant = some .postingMerge then
        match readRecord bs with
        | some r => s.mergePost r
        | none => s.postDone .malformed
      else s
    | none => s

/-- R72, R73: a removal of the running pass. -/
def SessionTable.housekeep (e : SessionEntry) (p : HousekeepingPass) (tb : SessionTable) : SessionTable :=
  { tb.remove e.slot with running := some { p with next := e.slot + 1 } }.settle

/-- HOUSEKEEPING_REMOVAL (R72, R73, R79). -/
def execHousekeepingRemoval (s : State) : Result :=
  .next <|
    match s.sessions.running with
    | some p =>
      if s.grant = some .housekeeping then
        match s.sessions.removal p with
        | some e =>
          { s with
            sessions := s.sessions.housekeep e p
            composer := s.composer.onSessions s.settings s.passNow [removedReport e.record] }
        | none => { s with sessions := s.sessions.settle }
      else s
    | none => s

/-- R74: the refresh scan has asked for the slot. -/
def SessionTable.requested (slot : Nat) (tb : SessionTable) : Bool := tb.refreshReqs.any fun q => decide (q.2 = slot)

/-- When the table clock reaches the next refresh time of a slot's entry (R74). An entry whose request is outstanding is not
requested again: it keeps the place of the due time it was requested with, even where it has been suppressed or replaced since and has
fallen due anew. R74 leaves that order open; the model's choice (log entry 35). -/
def SessionTable.refreshWait (slot : Nat) (tb : SessionTable) : Option Nat :=
  onlyIf (!tb.requested slot) (clockWait tb.clock ((tb.atSlot slot).bind (·.nextRefresh)))

/-- R74: the earliest due first, and among equal due times the lowest slot. -/
def requestPrecedes (x y : Nat × Nat) : Bool := decide (x.1 < y.1) || (decide (x.1 = y.1) && decide (x.2 < y.2))

/-- R74: the refresh scan requests the store for a slot. -/
def SessionTable.requestRefresh (slot : Nat) (tb : SessionTable) : SessionTable :=
  match (tb.atSlot slot).bind (·.nextRefresh) with
  | some due => { tb with refreshReqs := insertBy requestPrecedes (due, slot) tb.refreshReqs }
  | none => tb

/-- REFRESH_DUE (R74). -/
def execRefreshDue (slot : Nat) (s : State) : Result :=
  .next <| s.after (s.sessions.refreshWait slot) fun s => { s with sessions := s.sessions.requestRefresh slot }

/-- R74: an entry is offered at the grant of its refresh: still refreshable and due. -/
def SessionEntry.refreshNow (st : Settings) (clock : Nat) (e : SessionEntry) : Bool :=
  e.refreshable st clock && e.nextRefresh.any fun n => decide (n ≤ clock)

/-- R74: the offer of an entry's refresh and the schedule after it. -/
def State.offerRefresh (e : SessionEntry) (s : State) : State :=
  let t := s.offer (.session e.record) true false
  { t with
    sessions := t.sessions.setRefresh e.slot (some
      (if s.takes (.session e.record) then refreshFrom s.settings.stationId s.sessions.clock
        else s.sessions.clock + retryTime)) }

/-- REFRESH_SCAN_GRANT (R74, R79). -/
def execRefreshScanGrant (s : State) : Result :=
  .next <|
    match s.sessions.refreshReqs with
    | (_, slot) :: rest =>
      if s.grant = some .refreshScan then
        let t := { s with sessions := { s.sessions with refreshReqs := rest } }
        match s.sessions.atSlot slot with
        | some e => if e.refreshNow s.settings s.sessions.clock then t.offerRefresh e else t
        | none => t
      else s
    | [] => s

/-- R62, R71: an expired tombstone has no next refresh time, and its pending refresh is dropped. -/
def SessionTable.expire (slot : Nat) (tb : SessionTable) : SessionTable :=
  { tb.setRefresh slot none with refreshReqs := dropRequest slot tb.refreshReqs }

/-- TOMBSTONE_EXPIRY (R62, R71). -/
def execTombstoneExpiry (slot : Nat) (s : State) : Result :=
  .next <| s.after (clockWait s.sessions.clock ((s.sessions.atSlot slot).bind (·.expiry))) fun s =>
    { s with sessions := s.sessions.expire slot }

/-- R80: an entry as a read returns it, whole. -/
def SessionTable.view (e : SessionEntry) (tb : SessionTable) : SessionView :=
  { slot := e.slot, record := e.record, arrival := e.arrival, isLocal := e.isLocal, tombstone := e.isTombstone
    changed := tb.changed.contains e.slot }

/-- R80: a read of a slot: its entry, or the slot empty. -/
def SessionTable.readSlot (slot : Nat) (tb : SessionTable) : Option SessionView :=
  (tb.atSlot slot).map fun e => tb.view e

/-- R80, R145: the running pass reads the next slot. -/
def Pass.readSlot (tb : SessionTable) (p : Pass) : Pass := { p with slots := p.slots ++ [tb.readSlot p.slots.length] }

/-- COMPOSER_SESSION_READ (R79, R80, R145). -/
def execComposerSessionRead (s : State) : Result :=
  .next <|
    if s.grant = some .composerRead then
      { s with composer := { s.composer with pass := s.composer.pass.map (·.readSlot s.sessions) } }
    else s

/-- An entry as READ SESSION sends it (chapter 12, 12.2). The manual gives the arrival time in ms and not how a reading between two
ms is sent: the model sends the whole ms that have passed (log entry 36). 12.2 gives bits 3..7 of the entry flags no value;
DESIGN CHOICE: 0 (log entry 42). -/
def SessionView.bytes (v : SessionView) : List Byte :=
  [byte v.slot] ++ be32 (v.arrival / 1000 % 4294967296)
    ++ [byte (bitIf v.isLocal 0 + bitIf v.tombstone 1 + bitIf v.changed 2)]
    ++ [byte (encodeRecord v.record).length] ++ encodeRecord v.record

/-- The response to a read: the entry, or NOT_FOUND where there is none (R80, R81). -/
def LocalPort.readDone (v : Option SessionView) (p : LocalPort) : LocalPort :=
  match v with
  | some v => p.complete .ok 0x06 v.bytes
  | none => p.complete .notFound 0x06 []

/-- LOCAL_PORT_SESSION_READ (R79 to R81). -/
def execLocalPortSessionRead (s : State) : Result :=
  .next <|
    if s.grant = some .portRead then
      match s.port.inHand with
      | some (.readSession index) =>
        if index = 0xFF then
          { s with
            port := s.port.readDone (s.sessions.changed.head?.bind fun i => s.sessions.readSlot i)
            sessions := { s.sessions with changed := s.sessions.changed.tail } }
        else { s with port := s.port.readDone (s.sessions.readSlot index) }
      | _ => s
    else s

end Sys2Proof.Machine
end

