-- ==== Sys2Proof/Machine/Time.lean ====
section
/-!
DEFINITION. The Time Unit (chapter 3): beacons handed over, rounds and their trimmed midpoint, correction, steps, SET TIME,
minute events and the beacon timer.
-/

namespace Sys2Proof.Machine

/-! ## Adjustments (R39, R43) -/

/-- 256 days in ms (R39). -/
def wrapMs : Nat := 22118400000

/-- R39: the counter moved by a signed number of ms; the fraction is kept. -/
def TimeUnit.shift (d : Int) (t : TimeUnit) : TimeUnit :=
  let total := (((t.day * dayMs + t.ms : Nat) : Int) + d) % (wrapMs : Int)
  { t with day := total.toNat / dayMs, ms := total.toNat % dayMs }

/-- R43: how many BEACON frames the Inbound Queue holds. -/
def beaconCount (q : List InFrame) : Nat := q.countP (·.body.isBeacon)

/-- R39, R43: a correction or step; 0 ms is no adjustment. `waiting`: the BEACON frames in the Inbound Queue, all of which are added, also
those that an adjustment before this one has counted already (log entry 39). -/
def TimeUnit.adjust (d : Int) (waiting : Nat) (t : TimeUnit) : TimeUnit :=
  if d = 0 then t else { t.shift d with stale := t.stale + waiting }

/-- What an event of the Time Unit comes to: the unit, whether it raises TIME_STEP, whether the Composer is told (R40). -/
structure TimeOut where
  time : TimeUnit
  step : Bool
  told : Bool
  deriving DecidableEq, Repr

/-- R40: told of a change of sync state, of a step or setting, and of a change of epoch. -/
def TimeOut.ofChange (old : TimeUnit) (new : TimeUnit) (step : Bool) : TimeOut :=
  { time := new, step := step, told := step || decide (new.sync ≠ old.sync) || decide (new.epoch ≠ old.epoch) }

/-- R38: the minute the last minute event was given for. -/
def TimeUnit.giveMinute (t : TimeUnit) : TimeUnit := { t with minuteGiven := t.minute }

/-- R38: the counter has crossed a minute boundary, and the minute event of that is not yet given. -/
def TimeUnit.crossed (t : TimeUnit) : Bool := decide (t.sync ≠ .free) && decide (t.minute ≠ t.minuteGiven)

/-- R38, R72, R144: a minute event is given to the Session Table and the Composer. -/
def State.giveMinuteEvent (s : State) : State :=
  { s with
    time := s.time.giveMinute
    sessions := s.sessions.minuteEvent s.time.known s.time.day s.time.minute
    composer := s.composer.invalidateIf (s.composer.hitByMinute s.time.stamp) s.passNow }

/-- R38: a crossing whose minute event is not yet given gives it before an adjustment moves the minute, so that neither is lost. -/
def State.giveCrossing (s : State) : State := if s.time.crossed then s.giveMinuteEvent else s

/-- R38 to R40, R144: an event of the Time Unit has been handled: where the current minute differs from before it, one minute
event to the Session Table and the Composer, after that of a crossing which came before; TIME_STEP; one report to the Composer, after
the rest. Where the reading has changed the Composer compares it with its valid-until time. -/
def State.timeEvent (o : TimeOut) (s : State) : State :=
  let minute := decide (o.time.minute ≠ s.time.minute)
  let s := if minute then s.giveCrossing else s
  let t := if minute then o.time.giveMinute else o.time
  { s with
    time := t
    sessions := if minute then s.sessions.minuteEvent t.known t.day t.minute else s.sessions
    composer := s.composer.onTime (decide (t.stamp ≠ s.time.stamp)) minute o.told { s with time := t }.passNow
    port := s.port.raiseIf o.step .timeStep }

/-! ## Samples and rounds (R44 to R53) -/

/-- R44: (b − a) mod 256 for epochs. -/
def epochAhead (b a : Nat) : Nat := (b + 256 - a % 256) % 256

/-- R44: the beacon's epoch is newer. -/
def epochNewer (b a : Nat) : Bool := decide (1 ≤ epochAhead b a) && decide (epochAhead b a ≤ 127)

/-- R47: a sample enters the list. -/
def enterSample (source : Nat) (d : Int) (devs : List (Nat × Int)) : List (Nat × Int) :=
  if devs.any (fun p => decide (p.1 = source)) then devs.map fun p => if p.1 = source then (source, d) else p
  else if devs.length < 15 then devs ++ [(source, d)] else devs

/-- R49: the trim depth. -/
def trimDepth (n : Nat) : Nat := if n ≤ 2 then 0 else if n ≤ 7 then 1 else 2

/-- Ascending order. -/
def sortInts (l : List Int) : List Int := sortBy (fun x y => decide (x ≤ y)) l

/-- R49: the deviations that remain after trimming, in ascending order. -/
def trimmed (ds : List Int) : List Int :=
  let k := trimDepth ds.length
  ((sortInts ds).drop k).take (ds.length - 2 * k)

/-- R49: the trimmed midpoint, truncated toward zero. -/
def trimmedMidpoint (ds : List Int) : Int := ((trimmed ds).headD 0 + (trimmed ds).getLastD 0).tdiv 2

/-- Clamped to −b..+b. -/
def clampTo (b x : Int) : Int := max (-b) (min b x)

/-- R52: the rate step in ppm. -/
def rateStep (midpoint : Int) : Int := clampTo 40 ((midpoint * 125).tdiv 4)

/-- R45: epoch adoption. -/
def TimeUnit.adopt (b : Nat) (d : Int) (waiting : Nat) (t : TimeUnit) : TimeUnit :=
  { t.adjust d waiting with
    devs := [], epoch := b, missed := 0, outBand := 0, sync := .locked, roundTimer := some 0,
    beaconTimer := if t.sync = .joining then some 0 else t.beaconTimer }

/-- R44, R46: entry into JOINING at the first beacon. -/
def TimeUnit.join (source b : Nat) (d : Int) (waiting : Nat) (t : TimeUnit) : TimeUnit :=
  { t with epoch := b, sync := .joining, roundTimer := some 0, devs := enterSample source d t.devs,
           stale := t.stale + waiting }

/-- R43 to R47: a beacon handed over. `waiting`: the BEACON frames still in the queue. -/
def TimeUnit.hearBeacon (source b : Nat) (x arrival : Stamp) (waiting : Nat) (t : TimeUnit) : TimeOut :=
  let d := deviation x arrival
  if 0 < t.stale then { time := { t with stale := t.stale - 1 }, step := false, told := false }
  else if t.sync = .free then TimeOut.ofChange t (t.join source b d waiting) false
  else if epochNewer b t.epoch then TimeOut.ofChange t (t.adopt b d waiting) true
  else if b = t.epoch then { time := { t with devs := enterSample source d t.devs }, step := false, told := false }
  else { time := t, step := false, told := false }

/-- R48: the list is emptied and the round timer starts again. -/
def TimeUnit.newRound (t : TimeUnit) : TimeUnit := { t with devs := [], roundTimer := some 0 }

/-- R50: a round end in JOINING. -/
def TimeUnit.endJoining (m : Int) (waiting : Nat) (t : TimeUnit) : TimeUnit :=
  { t.adjust m waiting with sync := .locked, missed := 0, outBand := 0, beaconTimer := some 0 }

/-- R51: a round end with no samples. -/
def TimeUnit.endMissed (t : TimeUnit) : TimeUnit :=
  { t with missed := min (t.missed + 1) 3, outBand := 0,
           sync := if t.sync = .locked ∧ 3 ≤ t.missed + 1 then .coasting else t.sync }

/-- R52: an in-band round end. -/
def TimeUnit.endInBand (m : Int) (waiting : Nat) (t : TimeUnit) : TimeUnit :=
  { t.adjust (clampTo 250 m) waiting with
    missed := 0, outBand := 0, sync := .locked, trim := clampTo 400 (t.trim + rateStep m) }

/-- R53: an out-of-band round end before the third in a row. -/
def TimeUnit.endOutOfBand (t : TimeUnit) : TimeUnit := { t with missed := 0, outBand := t.outBand + 1 }

/-- R53: the third out-of-band round end in a row. -/
def TimeUnit.endOutStep (m : Int) (waiting : Nat) (t : TimeUnit) : TimeUnit :=
  { t.adjust m waiting with missed := 0, outBand := 0, sync := .locked }

/-- R48 to R53: a round end. -/
def TimeUnit.endRound (waiting : Nat) (t : TimeUnit) : TimeOut :=
  let m := trimmedMidpoint (t.devs.map (·.2))
  if t.sync = .joining then TimeOut.ofChange t (t.endJoining m waiting).newRound true
  else if t.devs = [] then TimeOut.ofChange t t.endMissed.newRound false
  else if m.natAbs ≤ 2000 then TimeOut.ofChange t (t.endInBand m waiting).newRound false
  else if t.outBand + 1 < 3 then TimeOut.ofChange t t.endOutOfBand.newRound false
  else TimeOut.ofChange t (t.endOutStep m waiting).newRound true

/-- R54: SET TIME. The beacons that wait are counted and so dropped unexamined (R43); R55 has a beacon handed over after the setting meet
the new epoch. The model keeps R43 for a beacon already in the queue and R55 for the others (log entry 38). -/
def TimeUnit.setTo (day ms waiting : Nat) (t : TimeUnit) : TimeUnit :=
  { t with day := day, ms := ms, frac := 0, epoch := (t.epoch + 1) % 256, devs := [], missed := 0, outBand := 0,
           sync := .locked, stale := t.stale + waiting, roundTimer := some 0, beaconTimer := some 0 }

/-! ## The commands -/

/-- Round timer limit, 8 s (R48). -/
def roundLimit : Nat := 8000000

/-- Beacon timer limit, 2 s (R41). -/
def beaconLimit : Nat := 2000000

/-- BEACON_HANDOVER (R34, R43, R44). The Time Unit handles a beacon whole, so it can always take the next. -/
def execBeaconHandover (s : State) : Result :=
  .next <|
    match s.inbound with
    | f :: rest =>
      match f.body with
      | .beacon epoch day ms _ =>
        { s with inbound := rest }.timeEvent
          (s.time.hearBeacon f.source epoch { day := day, ms := ms } (f.arrival.getD s.time.stamp) (beaconCount rest))
      | _ => s
    | [] => s

/-- ROUND_END (R48). -/
def execRoundEnd (s : State) : Result :=
  .next <| s.after (timerWait roundLimit s.time.roundTimer) fun s =>
    s.timeEvent (s.time.endRound (beaconCount s.inbound))

/-- BEACON_TIMER_EXPIRY (R41, R2). -/
def execBeaconTimerExpiry (s : State) : Result :=
  .next <| s.after (timerWait beaconLimit s.time.beaconTimer) fun s =>
    { s with time := { s.time with beaconTimer := some 0 } }.beaconIndication

/-- When a minute event is due (R38): at once where the counter has crossed a boundary that no event was given for, else when it
reaches the next boundary. None in FREE. -/
def TimeUnit.minuteWait (t : TimeUnit) : Option Nat :=
  onlyIf (decide (t.sync ≠ .free)) <|
    if t.crossed then some 0
    else t.unitsWait ((t.minute + 1) * 60000 * msUnits - (t.ms * msUnits + t.frac))

/-- MINUTE_EVENT (R38): the counter crosses a minute boundary. -/
def execMinuteEvent (s : State) : Result := .next <| s.after s.time.minuteWait State.giveMinuteEvent

/-- R54: SET TIME taken with a day and a ms of day in range. -/
def State.setTime (day ms : Nat) (s : State) : State :=
  ((s.timeEvent (TimeOut.ofChange s.time (s.time.setTo day ms (beaconCount s.inbound)) true)).beaconIndication).answer
    .ok 0x09 []

/-- SET_TIME (R54, R174, R175). A day byte is always 0..255. -/
def execSetTime (body : List Byte) (s : State) : Result :=
  .next <| s.request 0x09 (decide (5 ≤ body.length)) inRun (fun s =>
    match body with
    | d :: m3 :: m2 :: m1 :: m0 :: _ =>
      if val32 m3 m2 m1 m0 ≤ 86399999 then s.setTime d.toNat (val32 m3 m2 m1 m0) else s.answer .malformed 0x09 []
    | _ => s.answer .malformed 0x09 [])

end Sys2Proof.Machine
end

