-- ==== Sys2Proof/Machine/LineAccess.lean ====
section
/-!
DEFINITION. Hall line access (chapter 1): the access cycle of a Line Engine, the outcomes of a transmission, the stuck line, and
LINE RESTART. Draws, carrier and readback come from outside; the engine's own counts are timed.
-/

namespace Sys2Proof.Machine

/-- µs of one back-off slot of 32 bit-times (R3). -/
def State.slotTime (s : State) : Nat := 32 * s.bitTime

/-- R3: the engine has work on its line. -/
def State.hasWork (l : LineId) (s : State) : Bool :=
  (s.line l).monitored &&
    ((s.line l).beaconDue || (s.line l).beaconCurrent || s.txQueue.any fun f => decide (f.mark l = .pending))

/-- The engine holds a current frame (R5). -/
def State.holdsCurrent (l : LineId) (s : State) : Bool :=
  (s.line l).beaconCurrent || s.txQueue.any (·.current l)

/-- The first element with a property, changed. -/
def changeFirst {α : Type} (p : α → Bool) (f : α → α) : List α → List α
  | [] => []
  | x :: xs => if p x then f x :: xs else x :: changeFirst p f xs

/-- R5: with no current frame, the due beacon, or else the oldest frame PENDING on the line, becomes current; collision count 0
and W 16 (R6, R7). -/
def State.choose (l : LineId) (s : State) : State :=
  if s.holdsCurrent l then s
  else if (s.line l).beaconDue then
    s.setLine l { s.line l with beaconCurrent := true, collisions := 0, window := 16 }
  else
    (s.withQueue (changeFirst (fun f => decide (f.mark l = .pending)) (fun f => f.setMark l .pending true) s.txQueue)).setLine
      l { s.line l with collisions := 0, window := 16 }

/-- R2, R42: the beacon body at this moment: epoch, day, ms of day and state. -/
def TimeUnit.beaconBody (t : TimeUnit) : Body := .beacon t.epoch t.day t.ms (decide (t.sync = .coasting))

/-- A frame's bytes as this station sends it (R1, R182). -/
def State.bytesOf (b : Body) (refresh prompt : Bool) (seq : Nat) (s : State) : List Byte :=
  frameBytes b.kindCode (frameFlags refresh prompt) s.settings.stationId seq (encodeBody b)

/-- The bytes of the engine's current frame; a beacon is built and stamped now (R2). -/
def State.currentBytes (l : LineId) (s : State) : List Byte :=
  if (s.line l).beaconCurrent then s.bytesOf s.time.beaconBody false false (s.line l).beaconSeq
  else
    match s.txQueue.find? (·.current l) with
    | some f => s.bytesOf f.body f.refresh f.prompt f.seq
    | none => []

/-- The line as a transmission begins: driver asserted, own carrier (R13); a frame being assembled is ended there (R22). -/
def Line.beginSending (bytes : List Byte) (x : Line) : Line :=
  { x with access := .sending bytes 0, carrier := true, carrierTime := 0, pastFrame := none, idleTime := 0, rx := none }

/-- A transmission attempt begins: the current frame is chosen (R5) and, where it is queued, is started (R16). -/
def State.transmit (l : LineId) (s : State) : State :=
  let t := s.choose l
  (t.withQueue (t.txQueue.map fun f => if f.current l then { f with started := true } else f)).setLine l
    ((t.line l).beginSending (t.currentBytes l))

/-- R8, R9, R11, R13: the engine holds no current frame; collision count 0, W 16. -/
def Line.release (x : Line) : Line := { x with access := .rest, collisions := 0, window := 16, beaconCurrent := false }

/-- The line is given up in a state: as `release`, and the beacon-due mark is cleared (R11, R13). -/
def Line.giveUp (st : LineState) (x : Line) : Line := { x.release with st := st, beaconDue := false }

/-- R11, R13: a frame PENDING on the line is ABANDONED there. -/
def TxFrame.giveUp (l : LineId) (f : TxFrame) : TxFrame :=
  if f.mark l = .pending then f.setMark l .abandoned false else f

/-- The queue with the line's PENDING frames given up, finished frames gone (R15). -/
def giveUpQueue (l : LineId) (q : List TxFrame) : List TxFrame := dropFinished (q.map (·.giveUp l))

/-- The queue with the line's current frame finished under a mark, finished frames gone (R8, R9, R15). -/
def finishCurrent (l : LineId) (m : Mark) (q : List TxFrame) : List TxFrame :=
  dropFinished (q.map fun f => if f.current l then f.setMark l m false else f)

/-- The line's beacon, if it is current, is finished (R8, R9). -/
def Line.finishBeacon (x : Line) : Line := { x with beaconDue := x.beaconDue && !x.beaconCurrent }

/-- The line falls idle, or is idle: nobody drives it. -/
def Line.quiet (x : Line) : Line := { x with carrier := false, carrierTime := 0, pastFrame := none, idleTime := 0 }

/-- The last byte of a frame on the line is over (R22, R9). Its sender releases the line then (1.4), so the line counts as idle; where
another party holds it, the carrier has not broken and its measurement goes on (R13): which of the two, a later command tells
(log entry 14). -/
def Line.frameOver (x : Line) : Line := { x.quiet with pastFrame := onlyIf x.carrier (some x.carrierTime) }

/-- Carrier appears on the line. -/
def Line.busy (x : Line) : Line := { x with carrier := true, carrierTime := 0, pastFrame := none, idleTime := 0 }

/-! ## The commands -/

/-- R3, R4: after the idle gap: a draw from 0..W−1, a suspended count resumed, or a transmission at once where the count is 0.
An engine with no work ends its access cycle. `draw` is reduced modulo W (log entry 7). -/
def State.afterGap (l : LineId) (draw : Nat) (s : State) : State :=
  if !s.hasWork l then
    (if (s.line l).driverEnable then s else s.setLine l { s.line l with access := .rest })
  else
    match (s.line l).access with
    | .rest =>
      if draw % (s.line l).window = 0 then s.transmit l
      else s.setLine l { s.line l with access := .counting (draw % (s.line l).window) 0 }
    | .suspended slots =>
      if slots = 0 then s.transmit l else s.setLine l { s.line l with access := .counting slots 0 }
    | .counting _ _ => s
    | .sending _ _ => s

/-- The line with idle seen from now on, if it was not idle; a frame being assembled ends early there (R22). -/
def Line.idleFromNow (x : Line) : Line :=
  if x.carrier then { x.quiet with rx := none } else { x with pastFrame := none, rx := none }

/-- LINE_IDLE_GAP (R3, R4): the receiver has seen the line idle for 12 bit-times. It does not come about while the station
itself drives the line. -/
def execLineIdleGap (l : LineId) (draw : Nat) (s : State) : Result :=
  .next <|
    if s.running && !(s.line l).driverEnable then
      (s.setLine l (s.line l).idleFromNow).after (some (12 * s.bitTime - (s.line l).idleFromNow.idleTime))
        (State.afterGap l draw)
    else s

/-- R4: the slots left when the line goes busy; the slot under way is not counted. -/
def Access.suspend (slotTime : Nat) : Access → Access
  | .counting slots e => .suspended (slots - e / slotTime)
  | .suspended slots => .suspended slots
  | .rest => .rest
  | .sending bytes e => .sending bytes e

/-- R4: carrier appears: a count is suspended; where it has just reached 0 the engine has chosen its frame (R5, R17). -/
def State.goBusy (l : LineId) (s : State) : State :=
  let x := s.line l
  let t := s.setLine l { x.busy with access := x.access.suspend s.slotTime }
  match x.access with
  | .counting slots e => if slots - e / s.slotTime = 0 && s.hasWork l then t.choose l else t
  | _ => t

/-- LINE_BUSY (R4, R13). -/
def execLineBusy (l : LineId) (s : State) : Result :=
  .next <| if s.running && !(s.line l).driverEnable then s.goBusy l else s

/-- When a line's back-off count reaches 0 (R3). -/
def State.backoffWait (l : LineId) (s : State) : Option Nat :=
  match (s.line l).access with
  | .counting slots e => onlyIf s.running (some (slots * s.slotTime - e))
  | _ => none

/-- R4, R5: the count reaches 0: with no work the cycle ends; on a busy line the frame is chosen and waits for the next gap;
otherwise the transmission begins. -/
def State.countDone (l : LineId) (s : State) : State :=
  if !s.hasWork l then s.setLine l { s.line l with access := .rest }
  else if (s.line l).carrier then (s.setLine l { s.line l with access := .suspended 0 }).choose l
  else s.transmit l

/-- BACKOFF_EXPIRY (R5). -/
def execBackoffExpiry (l : LineId) (s : State) : Result := .next <| s.after (s.backoffWait l) (State.countDone l)

/-- The notice of a line that enters DOWN (R11). -/
def downNotice : LineId → Notice
  | .a => .lineADown
  | .b => .lineBDown

/-- The notice of a line that enters STUCK (R13). -/
def stuckNotice : LineId → Notice
  | .a => .lineAStuck
  | .b => .lineBStuck

/-- R11, R18: the second echo failure. With the other line DOWN as well the queue is emptied. -/
def State.enterDown (l : LineId) (s : State) : State :=
  ((s.withQueue (if (s.line (otherLine l)).st = .down then [] else giveUpQueue l s.txQueue)).raise (downNotice l)).setLine l
    ((s.line l).giveUp .down).quiet

/-- ECHO_FAILURE (R10, R11): the start delimiter of a transmission under way does not come back. -/
def execEchoFailure (l : LineId) (s : State) : Result :=
  .next <|
    if (s.line l).driverEnable then
      if (s.line l).st = .check then s.enterDown l
      else s.setLine l { (s.line l).quiet with st := .check, access := .rest }
    else s

/-- R7, R8: a collision: W doubled up to 256, or at the eighth the frame is abandoned on this line. -/
def State.collide (l : LineId) (s : State) : State :=
  let x := s.line l
  if x.collisions + 1 < 8 then
    s.setLine l { x with access := .rest, collisions := x.collisions + 1, window := min 256 (2 * x.window) }
  else
    ((s.withQueue (if x.beaconCurrent then s.txQueue else finishCurrent l .abandoned s.txQueue)).raise .txAbandoned).setLine l
      x.finishBeacon.release

/-- COLLISION (R7, R8). -/
def execCollision (l : LineId) (s : State) : Result :=
  .next <| if (s.line l).driverEnable then s.collide l else s

/-- When the transmission under way has driven its last bit (R183). -/
def State.sentWait (l : LineId) (s : State) : Option Nat :=
  match (s.line l).access with
  | .sending bytes e => some (frameBitTimes bytes.length * s.bitTime - e)
  | _ => none

/-- R9, R11: the frame has been sent on this line. -/
def State.sentOn (l : LineId) (s : State) : State :=
  let x := s.line l
  (s.withQueue (if x.beaconCurrent then s.txQueue else finishCurrent l .sent s.txQueue)).setLine l
    { x.finishBeacon.release.frameOver with st := if x.st = .check then .up else x.st }

/-- FRAME_SENT (R9): every bit came back as driven. -/
def execFrameSent (l : LineId) (s : State) : Result := .next <| s.after (s.sentWait l) (State.sentOn l)

/-- R13: the line enters STUCK. -/
def State.enterStuck (l : LineId) (s : State) : State :=
  ((s.withQueue (giveUpQueue l s.txQueue)).raise (stuckNotice l)).setLine l
    { (s.line l).giveUp .stuck with idleTime := 0 }

/-- The carrier measurement at which a line enters STUCK, 10,000 bit-times in µs (R13). -/
def State.stuckLimit (s : State) : Nat := 10000 * s.bitTime

/-- The line with carrier that a CARRIER_STUCK tells of: the carrier that is present; or the one that has not broken since the end
of a frame, unless it would have reached the limit before now; or else one that appears now. Log entry 14. -/
def Line.carrierUnbroken (limit : Nat) (x : Line) : Line :=
  if x.carrier then x
  else
    match x.pastFrame with
    | some t => if t ≤ limit then { x.busy with carrierTime := t } else x.busy
    | none => x.busy

/-- When unbroken carrier reaches the limit of R13. The station's own transmission ends before its own carrier reaches it, and so it
does not come about where a transmission under way ends first. -/
def State.stuckWait (l : LineId) (s : State) : Option Nat :=
  let w := s.stuckLimit - ((s.line l).carrierUnbroken s.stuckLimit).carrierTime
  onlyIf (s.running && (s.line l).monitored && ((s.sentWait l).all fun left => decide (w ≤ left))) (some w)

/-- CARRIER_STUCK (R13): unbroken carrier reaches 10,000 bit-times on a line in UP or CHECK. -/
def execCarrierStuck (l : LineId) (s : State) : Result :=
  .next <|
    match s.stuckWait l with
    | some n => (s.setLine l ((s.line l).carrierUnbroken s.stuckLimit)).after (some n) (State.enterStuck l)
    | none => s

/-- R14: the line returns to UP. -/
def Line.recover (x : Line) : Line := { x.release with st := .up, carrierTime := 0 }

/-- STUCK_LINE_RECOVERY (R14): unbroken idle reaches 50,000 bit-times on a STUCK line. -/
def execStuckLineRecovery (l : LineId) (s : State) : Result :=
  .next <|
    if s.running && decide ((s.line l).st = .stuck) then
      (s.setLine l (s.line l).idleFromNow).after (some (50000 * s.bitTime - (s.line l).idleFromNow.idleTime))
        fun s => s.setLine l (s.line l).recover
    else s

/-- START_DELIMITER (R22, R32): the receiver begins a frame and takes its arrival timestamp. While the station drives the line
nothing is assembled. -/
def execStartDelimiter (l : LineId) (s : State) : Result :=
  .next <|
    if s.running && !(s.line l).driverEnable then
      let t := if (s.line l).carrier then s else s.goBusy l
      t.setLine l { t.line l with rx := some s.time.stamp }
    else s

/-- R20: a line after LINE RESTART; the receiver goes on (R35), and a carrier that may not have broken is measured from 0. -/
def Line.restart (x : Line) : Line :=
  { Line.reset with carrier := x.carrier && !x.driverEnable, pastFrame := x.pastFrame.map fun _ => 0, rx := x.rx }

/-- R20, R35, R43: LINE RESTART. -/
def State.restartLines (s : State) : State :=
  { s with
    lineA := s.lineA.restart, lineB := s.lineB.restart, txQueue := [], inbound := [], dups := []
    time := { s.time with stale := 0 } }

/-- LINE_RESTART (R20, R175). -/
def execLineRestart (_body : List Byte) (s : State) : Result :=
  .next <| s.request 0x0B true inRun fun s => s.restartLines.answer .ok 0x0B []

end Sys2Proof.Machine
end

