-- ==== Sys2Proof/Machine/Reception.lean ====
section
/-!
DEFINITION. Reception (chapter 2): the Receive Sorter's stages at a frame's end, the duplicate list, and the offer to the
Inbound Queue.
-/

namespace Sys2Proof.Machine

/-- R26, R27: the pair is in the duplicate list, at an age below 2 s. -/
def dupHas (source seq : Nat) (dups : List DupEntry) : Bool :=
  dups.any fun d => decide (d.source = source) && decide (d.seq = seq) && d.young

/-- R26: a pair is inserted with age 0; of 64 entries the oldest by insertion leaves first. -/
def dupInsert (source seq : Nat) (dups : List DupEntry) : List DupEntry :=
  (if 64 ≤ dups.length then dups.drop 1 else dups) ++ [{ source := source, seq := seq, age := 0 }]

/-- R29: a room matches a filter. -/
def RoomFilter.admits (f : RoomFilter) (r : Nat) : Bool :=
  decide ((r % 1024) &&& f.mask = f.value &&& f.mask)

/-- R29: a room meets one of the three tests. -/
def Settings.wantsRoom (st : Settings) (r : Nat) : Bool :=
  (decide (st.homeRoom ≠ 0) && decide (r = st.homeRoom)) || st.directory.contains r || st.filters.any (·.admits r)

/-- R29: a SESSION frame's acceptance, on flag and rooms as the frame carries them. -/
def Settings.acceptsSession (st : Settings) (plenary : Bool) (rooms : List Nat) : Bool :=
  plenary || rooms.any st.wantsRoom

/-- R28: the source is the neighbour of an in-use link. -/
def Settings.isNeighbour (st : Settings) (source : Nat) : Bool := st.links.any fun k => decide (k.neighbour = source)

/-- R28 to R31: acceptance by kind, then the body check: the normalised body, or none for a frame that is discarded. -/
def sortBody (st : Settings) (f : RawFrame) : Option Body :=
  match f.kind with
  | 1 => parseBeacon f.body
  | 2 =>
    match parseRecord f.body with
    | some r => if st.acceptsSession r.plenary r.rooms && r.ok then some (.session r.normalise) else none
    | none => none
  | 3 => if st.isNeighbour f.source then (parseAdvert f.body).map .advert else none
  | 4 => parseCondition f.body
  | _ => none

/-- The queued form of a frame: flags read by kind (R24), the arrival timestamp of a BEACON alone (R32). -/
def queuedFrame (f : RawFrame) (b : Body) (arrival : Stamp) : InFrame :=
  { source := f.source, seq := f.seq, refresh := b.isSession && f.flags.getLsbD 0,
    prompt := b.isAdvert && f.flags.getLsbD 1, body := b, arrival := if b.isBeacon then some arrival else none }

/-- R33: a SESSION with REFRESH set or an ADVERT with PROMPT clear gives way at the critical level. -/
def InFrame.sheddable (f : InFrame) : Bool := (f.body.isSession && f.refresh) || (f.body.isAdvert && !f.prompt)

/-- R33: the offer to the Inbound Queue. -/
def State.inboundOffer (f : InFrame) (s : State) : State :=
  if 24 ≤ s.inbound.length then { s with port := s.port.raise .inboundOverrun }
  else if 18 ≤ s.inbound.length && f.sheddable then { s with port := s.port.raise .inboundPressure }
  else { s with inbound := s.inbound ++ [f] }

/-- R24 to R33: the stages after the frame check. -/
def State.sortFrame (f : RawFrame) (arrival : Stamp) (s : State) : State :=
  if f.kind < 1 || 4 < f.kind then s
  else if f.source = s.settings.stationId then { s with port := s.port.raise .idClash }
  else if dupHas f.source f.seq s.dups then s
  else
    let t := { s with dups := dupInsert f.source f.seq s.dups }
    match sortBody s.settings f with
    | some b => t.inboundOffer (queuedFrame f b arrival)
    | none => t

/-- R22: the line as a received frame ends: after its last byte, or by falling idle early. -/
def Line.endReception (bytes : List Byte) (x : Line) : Line :=
  if frameWhole bytes then { x.frameOver with rx := none } else { x.quiet with rx := none }

/-- FRAME_END (R22 to R33): the frame being assembled ends with the bytes taken in. -/
def execFrameEnd (l : LineId) (bytes : List Byte) (s : State) : Result :=
  .next <|
    match (s.line l).rx with
    | some arrival =>
      let t := s.setLine l ((s.line l).endReception bytes)
      match parseFrame bytes with
      | some f => t.sortFrame f arrival
      | none => t
    | none => s

/-- DUPLICATE_ENTRY_EXPIRY (R27): the oldest entry's age reaches 2 s, and every entry of that age is removed. -/
def execDuplicateEntryExpiry (s : State) : Result :=
  .next <| s.after (s.dups.head?.map fun d => dupLimit - d.age) fun s => { s with dups := s.dups.filter DupEntry.young }

end Sys2Proof.Machine
end

