-- ==== Sys2Proof/Machine/RouteCost.lean ====
section
/-!
DEFINITION. Route cost arithmetic (chapter 5): rank, candidates, the home candidate, selection, reconciliation, and what the
station advertises.
-/

namespace Sys2Proof.Machine

/-- R85: classes from best to worst. -/
def Cost.classRank : Cost → Nat
  | .finite _ _ => 0
  | .closed _ => 1
  | .unknown => 2
  | .unreachable => 3

/-- R85: ranks strictly better. -/
def Cost.better (x y : Cost) : Bool :=
  match x, y with
  | .finite m h, .finite n k => decide (m < n) || (decide (m = n) && decide (h < k))
  | .closed h, .closed k => decide (h < k)
  | _, _ => decide (x.classRank < y.classRank)

/-- A candidate as it is formed, with the notices its case names (R92). -/
structure Formed where
  cost : Cost
  notices : BitVec 16
  deriving DecidableEq, Repr

/-- A candidate that raises no notice. -/
def Formed.plain (c : Cost) : Formed := { cost := c, notices := 0 }

/-- R91: the candidate of a sum with a hop count. -/
def sumCandidate (policy : OverflowPolicy) (sum hops : Nat) : Formed :=
  if sum ≤ 32000 then Formed.plain (.finite sum hops)
  else
    match policy with
    | .limit => { cost := .finite 32000 hops, notices := Notice.costOverflow.mask }
    | .substitute => { cost := .unreachable, notices := Notice.costOverflow.mask }

/-- R88 to R91: a link's candidate in a profile, by the first case that matches. `closed` is the CLOSED vector read. -/
def candidate (st : Settings) (closed : ZoneVec) (level : Bool) (k : Link) (v : Option AdvValue) : Formed :=
  if level && k.stairs then Formed.plain .unreachable
  else
    match v with
    | none => Formed.plain .unknown
    | some v =>
      match v.cost with
      | .unknown => Formed.plain .unknown
      | .unreachable => Formed.plain .unreachable
      | .closed h =>
        if v.via = st.stationId then Formed.plain .unreachable
        else if 31 ≤ h then { cost := .unreachable, notices := Notice.hopLimit.mask }
        else Formed.plain (.closed (h + 1))
      | .finite c h =>
        if v.via = st.stationId then Formed.plain .unreachable
        else if 31 ≤ h then { cost := .unreachable, notices := Notice.hopLimit.mask }
        else if zoneSet closed k.zone then Formed.plain (.closed (h + 1))
        else sumCandidate st.policy (c + k.length) (h + 1)

/-- R93: the home candidate. -/
def homeCandidate (st : Settings) (closed : ZoneVec) : Cost :=
  if zoneSet closed st.zone then .closed 0 else .finite 0 0

/-- The stored values of a link, if it has any. -/
def RouteEntry.storedFor (e : RouteEntry) (link : Nat) : Option StoredValues :=
  e.stored.find? fun v => decide (v.link = link)

/-- The held value of a link in a profile (R86). DESIGN CHOICE: a value heard 100 s or more ago is held until the sweep drops it (R108)
and recomputes the entry in the same operation (log entry 44). -/
def RouteEntry.held (e : RouteEntry) (level : Bool) (link : Nat) : Option AdvValue :=
  (e.storedFor link).map fun v => if level then v.level else v.any

/-- Every link's candidate for an entry in a profile, in link order. -/
def RouteEntry.candidates (st : Settings) (closed : ZoneVec) (level : Bool) (e : RouteEntry) : List (Nat × Formed) :=
  st.links.map fun k => (k.index, candidate st closed level k (e.held level k.index))

/-- R94: a best points nowhere when its class is UNKNOWN or UNREACHABLE. -/
def bestFrom (link : Nat) (c : Cost) : Best :=
  match c with
  | .finite m h => { cost := .finite m h, link := some link }
  | .closed h => { cost := .closed h, link := some link }
  | .unreachable => { cost := .unreachable, link := none }
  | .unknown => { cost := .unknown, link := none }

/-- The best of a room nothing is known of (R99). -/
def Best.unknown : Best := { cost := .unknown, link := none }

/-- R94: the candidate of lowest rank, of several the one of the lowest link index. -/
def selectBest (cs : List (Nat × Formed)) : Best :=
  match pickBest (fun x y => x.2.cost.better y.2.cost) cs with
  | some (link, f) => bestFrom link f.cost
  | none => Best.unknown

/-- R95: the ANY best after reconciliation with the LEVEL best. -/
def reconcile (any level : Best) : Best := if level.cost.better any.cost then level else any

/-- R93: the entry is the home room's. -/
def Settings.isHome (st : Settings) (room : Nat) : Bool := decide (st.homeRoom ≠ 0) && decide (room = st.homeRoom)

/-- R93, R94: the selected best of a profile. -/
def RouteEntry.selected (st : Settings) (closed : ZoneVec) (level : Bool) (e : RouteEntry) : Best :=
  if st.isHome e.room then { cost := homeCandidate st closed, link := none }
  else selectBest (e.candidates st closed level)

/-- R96: a recomputation: the two bests. -/
def RouteEntry.recomputed (st : Settings) (closed : ZoneVec) (e : RouteEntry) : RouteEntry :=
  { e with
    level := e.selected st closed true
    any := reconcile (e.selected st closed false) (e.selected st closed true) }

/-- R92: the notices of all candidates a recomputation forms. -/
def RouteEntry.formNotices (st : Settings) (closed : ZoneVec) (e : RouteEntry) : BitVec 16 :=
  (e.candidates st closed false ++ e.candidates st closed true).foldl (fun m c => m ||| c.2.notices) 0

/-- R97: a best as the station advertises it. -/
def Best.advertised (st : Settings) (kept : ZoneVec) (b : Best) : AdvValue :=
  let via := match b.link with
    | some i => ((st.links.find? fun k => decide (k.index = i)).map (·.neighbour)).getD 0
    | none => 0
  match b.cost with
  | .finite m h => { cost := if zoneSet kept st.zone then .closed h else .finite m h, via := via }
  | .closed h => { cost := .closed h, via := via }
  | .unknown => { cost := .unknown, via := 0 }
  | .unreachable => { cost := .unreachable, via := 0 }

end Sys2Proof.Machine
end

