-- ==== Sys2Proof/Machine/Routes.lean ====
section
/-!
DEFINITION. The Route Engine (chapter 6): entries, pinning, the jobs on the table, adverts heard and sent, the sweep, and reads.
Times are route-clock readings in µs.
-/

namespace Sys2Proof.Machine

/-! ## The table -/

/-- Values this old are dropped, 100 s (R108). -/
def heardLimit : Nat := 100000000

/-- The round's period, 30 s (R113). -/
def roundPeriod : Nat := 30000000

/-- What work on the table comes to: the engine, the notices raised, and the route change reports, in order (R107). -/
structure RouteOut where
  eng : RouteEngine
  notices : BitVec 16
  reports : List RouteReport
  deriving DecidableEq, Repr

/-- The entry of a room. -/
def RouteEngine.entry (room : Nat) (e : RouteEngine) : Option RouteEntry :=
  e.entries.find? fun x => decide (x.room = room)

/-- An entry placed in ascending room order, in place of the room's old one. -/
def putEntry (x : RouteEntry) : List RouteEntry → List RouteEntry
  | [] => [x]
  | y :: ys => if x.room < y.room then x :: y :: ys else if x.room = y.room then x :: ys else y :: putEntry x ys

/-- The engine with an entry placed. -/
def RouteEngine.put (x : RouteEntry) (e : RouteEngine) : RouteEngine := { e with entries := putEntry x e.entries }

/-- R115: a room joins the prompt set; joining an empty set starts the prompt timer. -/
def RouteEngine.joinPrompt (room : Nat) (e : RouteEngine) : RouteEngine :=
  { e with
    promptSet := joinRoom room e.promptSet
    promptAt := if e.promptSet.isEmpty then some (e.clock + retryTime) else e.promptAt }

/-- R100: the room is pinned. -/
def pinnedRoom (st : Settings) (pinSet : List Nat) (room : Nat) : Bool :=
  st.isHome room || st.directory.contains room || pinSet.contains room

/-- R99: an entry as it is created. -/
def freshEntry (st : Settings) (pinSet : List Nat) (room : Nat) : RouteEntry :=
  { room := room, any := Best.unknown, level := Best.unknown, stored := [], pinned := pinnedRoom st pinSet room,
    changeCount := 0 }

/-- A room's entry is created. -/
def RouteEngine.create (st : Settings) (room : Nat) (e : RouteEngine) : RouteEngine :=
  e.put (freshEntry st e.pinSet room)

/-- One of the bests is other than UNKNOWN. -/
def RouteEntry.knownBest (x : RouteEntry) : Bool := decide (x.any.cost ≠ .unknown) || decide (x.level.cost ≠ .unknown)

/-- R105, R107, R109: a room's entry is removed whole and the removal reported; a room with a known best joins the prompt set. -/
def RouteOut.remove (x : RouteEntry) (o : RouteOut) : RouteOut :=
  let e := { o.eng with entries := o.eng.entries.filter fun y => decide (y.room ≠ x.room) }
  { o with eng := if x.knownBest then e.joinPrompt x.room else e, reports := o.reports ++ [.removed x.room] }

/-- A notice is raised in the course of the work. -/
def RouteOut.raise (n : Notice) (o : RouteOut) : RouteOut := { o with notices := o.notices ||| n.mask }

/-- R96, R106, R107: an entry is recomputed and placed; a changed best raises the change count once, joins the prompt set and is
reported with the two new bests. -/
def RouteOut.recompute (st : Settings) (closed : ZoneVec) (x : RouteEntry) (o : RouteOut) : RouteOut :=
  let y := x.recomputed st closed
  let n := o.notices ||| x.formNotices st closed
  if y.any ≠ x.any ∨ y.level ≠ x.level then
    { eng := (o.eng.put { y with changeCount := (x.changeCount + 1) % 65536 }).joinPrompt x.room
      notices := n, reports := o.reports ++ [.changed x.room y.any y.level] }
  else { eng := o.eng.put y, notices := n, reports := o.reports }

/-! ## Creation and replacement (R104, R105) -/

/-- R105: x is rather the victim than y: worse ANY best, then lower change count, then higher room. -/
def ratherVictim (x y : RouteEntry) : Bool :=
  y.any.cost.better x.any.cost ||
    (!x.any.cost.better y.any.cost &&
      (decide (x.changeCount < y.changeCount) ||
        (decide (x.changeCount = y.changeCount) && decide (y.room < x.room))))

/-- R105: the victim among the unpinned entries. -/
def RouteEngine.victim (e : RouteEngine) : Option RouteEntry := pickBest ratherVictim (e.entries.filter fun x => !x.pinned)

/-- The links a frame of a source serves (R102). -/
def Settings.served (st : Settings) (source : Nat) : List Link := st.links.filter fun k => decide (k.neighbour = source)

/-- R105: the arriving candidate of an advert entry, without notices. -/
def arriving (st : Settings) (closed : ZoneVec) (source : Nat) (a : AdvertEntry) : Cost :=
  (selectBest ((st.served source).map fun k => (k.index, candidate st closed false k (some a.any)))).cost

/-- R102 step 2, R103: the values of every link the frame serves are replaced. -/
def storeValues (st : Settings) (source heard : Nat) (a : AdvertEntry) (x : RouteEntry) : RouteEntry :=
  { x with
    stored := sortBy (fun v w => decide (v.link < w.link))
      ((x.stored.filter fun v => !(st.served source).any fun k => decide (k.index = v.link))
        ++ (st.served source).map fun k => { link := k.index, any := a.any, level := a.level, heard := heard }) }

/-- R102 step 1: the entry an advert entry goes to, and the table with room for it; none where it is skipped (R105). -/
def RouteOut.takeIn (st : Settings) (closed : ZoneVec) (source : Nat) (a : AdvertEntry) (o : RouteOut) :
    Option RouteEntry × RouteOut :=
  match o.eng.entry a.room with
  | some x => (some x, o)
  | none =>
    if o.eng.entries.length < 256 then (some (freshEntry st o.eng.pinSet a.room), o)
    else
      match o.eng.victim with
      | some v =>
        if (arriving st closed source a).better v.any.cost then
          (some (freshEntry st o.eng.pinSet a.room), o.remove v)
        else (none, o.raise .routeTableFull)
      | none => (none, o.raise .routeTableFull)

/-- R102: one advert entry applied. -/
def RouteOut.apply (st : Settings) (closed : ZoneVec) (source heard : Nat) (a : AdvertEntry) (o : RouteOut) : RouteOut :=
  match o.takeIn st closed source a with
  | (some x, o) => o.recompute st closed (storeValues st source heard a x)
  | (none, o) => o

/-- R100, R104, R105: a room of the pin set without an entry gets one, if one can be had. -/
def RouteOut.createPinned (st : Settings) (room : Nat) (o : RouteOut) : RouteOut :=
  if (o.eng.entry room).isSome then o
  else if o.eng.entries.length < 256 then { o with eng := o.eng.create st room }
  else
    match o.eng.victim with
    | some v => { o.remove v with eng := (o.remove v).eng.create st room }
    | none => o.raise .routeTableFull

/-- Work that has done nothing yet. -/
def RouteEngine.work (e : RouteEngine) : RouteOut := { eng := e, notices := 0, reports := [] }

/-- The rooms of the table in ascending order. -/
def RouteEngine.rooms (e : RouteEngine) : List Nat := e.entries.map (·.room)

/-! ## The entry operations of the jobs (R101) -/

/-- R111: one entry of a condition recomputation; `own`: the own zone's bit has changed. -/
def RouteOut.recomputeRoom (st : Settings) (closed : ZoneVec) (own : Bool) (room : Nat) (o : RouteOut) : RouteOut :=
  match o.eng.entry room with
  | none => o
  | some x =>
    let p := o.recompute st closed x
    match p.eng.entry room with
    | some y =>
      if own && (decide (y.any.cost.classRank = 0) || decide (y.level.cost.classRank = 0)) then
        { p with eng := p.eng.joinPrompt room }
      else p
    | none => p

/-- R100: a room's entry has its pinned flag set while the room is pinned and clear otherwise. -/
def RouteOut.repinRoom (st : Settings) (room : Nat) (o : RouteOut) : RouteOut :=
  match o.eng.entry room with
  | some x => { o with eng := o.eng.put { x with pinned := pinnedRoom st o.eng.pinSet room } }
  | none => o

/-- R109: every candidate is UNKNOWN but for LEVEL candidates of STAIRS links: no link holds a value other than UNKNOWN. -/
def RouteEntry.dead (st : Settings) (x : RouteEntry) : Bool :=
  st.links.all fun k =>
    match x.storedFor k.index with
    | none => true
    | some v => decide (v.any.cost = .unknown) && decide (v.level.cost = .unknown)

/-- R108: the entry without the values heard 100 s or more before the moment of the sweep. Until then they are held (log entry 44). -/
def RouteEntry.aged (moment : Nat) (x : RouteEntry) : RouteEntry :=
  { x with stored := x.stored.filter fun v => decide (moment < v.heard + heardLimit) }

/-- R108: an entry that has lost a value is recomputed. -/
def RouteOut.ageRoom (st : Settings) (closed : ZoneVec) (moment : Nat) (x : RouteEntry) (o : RouteOut) : RouteOut :=
  if (x.aged moment).stored.length = x.stored.length then o else o.recompute st closed (x.aged moment)

/-- R109: an unpinned dead entry is removed. -/
def RouteOut.dropDead (st : Settings) (room : Nat) (o : RouteOut) : RouteOut :=
  match o.eng.entry room with
  | some y => if !y.pinned && y.dead st then o.remove y else o
  | none => o

/-- R108, R109: one entry of the sweep. -/
def RouteOut.sweepRoom (st : Settings) (closed : ZoneVec) (moment room : Nat) (o : RouteOut) : RouteOut :=
  match o.eng.entry room with
  | some x => (o.ageRoom st closed moment x).dropDead st room
  | none => o

/-- R101: one entry operation. `closed` is the vector in force, which recomputations read (R87); a condition recomputation goes by
the vector it has read once and made the kept one (R111). -/
def RouteOut.doOp (st : Settings) (closed : ZoneVec) (o : RouteOut) : EntryOp → RouteOut
  | .apply source heard a => o.apply st closed source heard a
  | .recompute room own => o.recomputeRoom st o.eng.kept own room
  | .repin room => o.repinRoom st room
  | .create room => o.createPinned st room
  | .age room moment => o.sweepRoom st closed moment room

/-! ## The jobs (R101) -/

/-- R102: the operations of an advert job, in frame order. -/
def AdvertJob.ops (j : AdvertJob) : List EntryOp := j.entries.map (.apply j.source j.heard)

/-- R111: the operations of a condition recomputation, in ascending room order. -/
def RouteEngine.conditionOps (st : Settings) (closed : ZoneVec) (e : RouteEngine) : List EntryOp :=
  e.rooms.map fun r => .recompute r (zoneSet closed st.zone != zoneSet e.kept st.zone)

/-- R100: the operations of a pin-set update: the flags that change, in ascending room order, and then the creations for the rooms
that join, so that no creation takes the entry of a room that is pinned or keeps one that no longer is. -/
def RouteEngine.pinOps (st : Settings) (pins : List Nat) (e : RouteEngine) : List EntryOp :=
  ((e.entries.filter fun x => x.pinned != pinnedRoom st pins x.room).map fun x => .repin x.room)
    ++ (pins.filter fun r => !e.pinSet.contains r).map .create

/-- R108, R100: the operations of a sweep: every entry in ascending room order, and then the rooms of the pin set that have none. -/
def RouteEngine.sweepOps (e : RouteEngine) : List EntryOp := (e.rooms.map (.age · e.clock)) ++ e.pinSet.map .create

/-- A job goes into hand with its operations, or is done where none are left. -/
def RouteEngine.hold (job : Job) (left : List EntryOp) (e : RouteEngine) : RouteEngine :=
  { e with inHand := if left.isEmpty then none else some { job := job, left := left } }

/-- R101: a waiting job is taken into hand. What it reads once is read here: the vector that becomes the kept one (R111), the new
pin set (R100), the advert (R102), the moment of the sweep (R108). Building a frame reads every entry at once (R112). -/
def RouteEngine.takeJob (st : Settings) (closed : ZoneVec) (job : Job) (e : RouteEngine) : RouteEngine :=
  match job with
  | .condition => { e with kept := closed, conditionJob := false }.hold job (e.conditionOps st closed)
  | .pins =>
    match e.pinJob with
    | some pins => { e with pinSet := pins, pinJob := none }.hold job (e.pinOps st pins)
    | none => e
  | .advert =>
    match e.advertJob with
    | some j => { e with advertJob := none }.hold job j.ops
    | none => e
  | .frames => e
  | .sweep => { e with sweepJob := false }.hold job e.sweepOps

/-- R101: the job in hand does its next operations, up to a number of them or all that are left. -/
def RouteEngine.goOn (st : Settings) (closed : ZoneVec) (upTo : Option Nat) (e : RouteEngine) : RouteOut :=
  match e.inHand with
  | some h =>
    let n := upTo.getD h.left.length
    let o := (h.left.take n).foldl (RouteOut.doOp st closed) e.work
    { o with eng := o.eng.hold h.job (h.left.drop n) }
  | none => e.work

/-- R101: a job is taken into hand, if none is there, and goes on. -/
def RouteEngine.doJob (st : Settings) (closed : ZoneVec) (job : Job) (upTo : Option Nat) (e : RouteEngine) : RouteOut :=
  (if e.inHand.isSome then e else e.takeJob st closed job).goOn st closed upTo

/-- The state after work on the table: notices raised, reports to the Composer in order (R92, R107). -/
def State.withRoutes (o : RouteOut) (s : State) : State :=
  { s with
    routes := o.eng
    composer := s.composer.onRoutes s.passNow o.reports
    port := s.port.raiseMask o.notices }

/-- A READ ROUTE is in hand, for this room. -/
def LocalPort.wantsRoute (p : LocalPort) : Option Nat :=
  match p.inHand with
  | some (.readRoute room) => some room
  | _ => none

/-- R113: the rooms the next round frame lists. -/
def RouteEngine.roundRooms (e : RouteEngine) : List Nat :=
  ((e.entries.filter fun x => decide (e.cursor ≤ x.room) && x.knownBest).map (·.room)).take 20

/-- R101: a prompt frame is due to be offered. -/
def RouteEngine.promptWaits (e : RouteEngine) : Bool := e.promptDue && !e.promptSet.isEmpty

/-- R101: of the jobs that wait, the one done first. -/
def RouteEngine.firstJob (e : RouteEngine) : Option Job :=
  if e.conditionJob then some .condition
  else if e.pinJob.isSome then some .pins
  else if e.advertJob.isSome then some .advert
  else if e.promptWaits || decide (e.round = .due) then some .frames
  else if e.sweepJob then some .sweep
  else none

/-- R101: the job to go on with. A read that waits is served before the job in hand goes on or the next one begins. -/
def State.nextJob (s : State) : Option Job :=
  if s.composerWantsRoute.isSome || s.port.wantsRoute.isSome then none
  else
    match s.routes.inHand with
    | some h => some h.job
    | none => s.routes.firstJob

/-- R101: a job is done, or goes on, where it is the job to go on with: all that is left of it, or up to a number of its entry
operations. Its command does all that is left; left to itself the block does one operation in a step (log entry 9). -/
def State.doJob (job : Job) (upTo : Option Nat) (s : State) : State :=
  if s.nextJob = some job then s.withRoutes (s.routes.doJob s.settings s.zones.aggClosed job upTo) else s

/-- R102: an ADVERT handed over has entries still to be applied: its job waits or is in hand. -/
def RouteEngine.holdsAdvert (e : RouteEngine) : Bool := e.advertJob.isSome || e.inHand.any fun h => decide (h.job = .advert)

/-! ## Frames (R112 to R116) -/

/-- R112: the advert entry of a room. -/
def RouteEngine.advertOf (st : Settings) (e : RouteEngine) (room : Nat) : AdvertEntry :=
  match e.entry room with
  | some x => { room := room, any := x.any.advertised st e.kept, level := x.level.advertised st e.kept }
  | none => { room := room, any := { cost := .unknown, via := 0 }, level := { cost := .unknown, via := 0 } }

/-- R112: a frame's body. -/
def State.advertBody (rooms : List Nat) (s : State) : Body := .advert (rooms.map (s.routes.advertOf s.settings))

/-- R115, R116: the engine after a prompt frame's offer. -/
def RouteEngine.promptOffered (taken : Bool) (rooms : List Nat) (e : RouteEngine) : RouteEngine :=
  if taken then
    { e with promptSet := e.promptSet.filter fun r => !rooms.contains r
             promptDue := !(e.promptSet.filter fun r => !rooms.contains r).isEmpty }
  else { e with promptDue := false, promptAt := some (e.clock + retryTime) }

/-- R115, R116: a prompt frame is built and offered. -/
def State.buildPrompt (s : State) : State :=
  let rooms := s.routes.promptSet.take 20
  let t := s.offer (s.advertBody rooms) false true
  { t with routes := t.routes.promptOffered (s.takes (s.advertBody rooms)) rooms }

/-- R113: the round goes on, or has finished where no room at or above the cursor is left. -/
def RouteEngine.roundGoesOn (e : RouteEngine) : RouteEngine :=
  { e with round := if e.roundRooms.isEmpty then .idle else .due }

/-- R113, R114: the engine after a round frame's offer. -/
def RouteEngine.roundOffered (taken : Bool) (rooms : List Nat) (e : RouteEngine) : RouteEngine :=
  if taken then { e with cursor := rooms.getLastD 0 + 1 }.roundGoesOn
  else { e with round := .retryAt (e.clock + retryTime) }

/-- R113, R114: a round frame is built and offered; with no room to list the round has finished. -/
def State.buildRound (s : State) : State :=
  let rooms := s.routes.roundRooms
  if rooms.isEmpty then { s with routes := { s.routes with round := .idle } }
  else
    let t := s.offer (s.advertBody rooms) false false
    { t with routes := t.routes.roundOffered (s.takes (s.advertBody rooms)) rooms }

/-! ## The commands -/

/-- ADVERT_HANDOVER (R34, R102): the head ADVERT becomes the waiting advert job, its moment heard now. -/
def execAdvertHandover (s : State) : Result :=
  .next <|
    match s.inbound with
    | f :: rest =>
      match f.body with
      | .advert es =>
        if !s.routes.holdsAdvert then
          { s with
            inbound := rest
            routes := { s.routes with advertJob := some { source := f.source, entries := es, heard := s.routes.clock } } }
        else s
      | _ => s
    | [] => s

/-- ADVERT_JOB (R102 to R107): all the entries that are left. -/
def execAdvertJob (s : State) : Result := .next (s.doJob .advert none)

/-- CONDITION_RECOMPUTATION (R111): all the entries that are left. -/
def execConditionRecomputation (s : State) : Result := .next (s.doJob .condition none)

/-- PIN_SET_UPDATE (R100): all the entries that are left. -/
def execPinSetUpdate (s : State) : Result := .next (s.doJob .pins none)

/-- FRAME_BUILDING (R101, R112): one frame, a prompt frame before a round frame. -/
def execFrameBuilding (s : State) : Result :=
  .next <|
    if s.nextJob = some .frames then (if s.routes.promptWaits then s.buildPrompt else s.buildRound) else s

/-- SWEEP_TIMER_EXPIRY (R108): the timer reaches 1 s, a sweep waits, and the timer starts again. -/
def execSweepTimerExpiry (s : State) : Result :=
  .next <| s.after (clockWait s.routes.clock s.routes.nextSweep) fun s =>
    { s with routes := { s.routes with sweepJob := true, nextSweep := s.routes.nextSweep.map (· + retryTime) } }

/-- SWEEP (R108, R109): all the entries that are left. -/
def execSweep (s : State) : Result := .next (s.doJob .sweep none)

/-- ROUND_DUE (R113): a new round from room 1; an unfinished one is abandoned. -/
def execRoundDue (s : State) : Result :=
  .next <| s.after (clockWait s.routes.clock s.routes.nextRound) fun s =>
    { s with
      routes := { s.routes with cursor := 1, nextRound := s.routes.nextRound.map (· + roundPeriod) }.roundGoesOn }

/-- When a refused round frame is tried again (R114). -/
def RouteEngine.retryWait (e : RouteEngine) : Option Nat :=
  match e.round with
  | .retryAt t => some (t - e.clock)
  | .idle => none
  | .due => none

/-- ROUND_RETRY (R114): the round frame is due again, and is built and offered if it is the job to be done now (R101). -/
def execRoundRetry (s : State) : Result :=
  .next <| s.after s.routes.retryWait fun s =>
    let t := { s with routes := { s.routes with round := .due } }
    if t.nextJob = some .frames && !t.routes.promptWaits then t.buildRound else t

/-- PROMPT_DUE (R115): the prompt timer reaches 1 s and the prompt set is due. -/
def execPromptDue (s : State) : Result :=
  .next <| s.after (clockWait s.routes.clock s.routes.promptAt) fun s =>
    { s with routes := { s.routes with promptAt := none, promptDue := !s.routes.promptSet.isEmpty } }

/-- The glyph of a link. -/
def Settings.glyphOf (st : Settings) (link : Option Nat) : Nat :=
  match link with
  | some i => ((st.links.find? fun k => decide (k.index = i)).map (·.glyph)).getD 0
  | none => 0

/-- R118: a room's entry as a Composer read returns it; a room with no entry reads as UNKNOWN. -/
def RouteEngine.view (st : Settings) (e : RouteEngine) (room : Nat) : RouteView :=
  let any := ((e.entry room).map (·.any)).getD Best.unknown
  let level := ((e.entry room).map (·.level)).getD Best.unknown
  { room := room, any := any, level := level, anyGlyph := st.glyphOf any.link, levelGlyph := st.glyphOf level.link }

/-- COMPOSER_ROUTE_READ (R101, R118, R145). -/
def execComposerRouteRead (s : State) : Result :=
  .next <|
    match s.composerWantsRoute with
    | some room =>
      { s with
        composer := { s.composer with
          pass := s.composer.pass.map fun p => { p with routes := p.routes ++ [s.routes.view s.settings room] } } }
    | none => s

/-- R117: a link's candidates in both profiles, formed at the read against the kept vector. The hops byte of an UNKNOWN or
UNREACHABLE candidate is the model's choice (log entry 43). -/
def RouteEntry.linkData (st : Settings) (kept : ZoneVec) (x : RouteEntry) (k : Link) : List Byte :=
  [byte k.index] ++ encodeCost (candidate st kept false k (x.held false k.index)).cost
    ++ encodeCost (candidate st kept true k (x.held true k.index)).cost

/-- R117: the answer of READ ROUTE for an entry. The hops byte of an UNKNOWN or UNREACHABLE best is the model's choice
(log entry 43). -/
def RouteEntry.readData (st : Settings) (kept : ZoneVec) (x : RouteEntry) : List Byte :=
  be16 x.room ++ [byte (bitIf x.pinned 0)] ++ be16 x.changeCount ++ encodeBest x.any ++ encodeBest x.level
    ++ (if st.isHome x.room then encodeCost (homeCandidate st kept) else [])
    ++ [byte st.links.length] ++ st.links.flatMap (x.linkData st kept)

/-- LOCAL_PORT_ROUTE_READ (R101, R117): a waiting Composer read is served first. -/
def execLocalPortRouteRead (s : State) : Result :=
  .next <|
    match s.port.wantsRoute with
    | some room =>
      if s.composerWantsRoute.isSome then s
      else
        { s with
          port := match s.routes.entry room with
            | some x => s.port.complete .ok 0x07 (x.readData s.settings s.routes.kept)
            | none => s.port.complete .notFound 0x07 [] }
    | none => s

/-! ## Conditions and start -/

/-- R110: the change concerns the station: the bit of the own zone, or of an in-use link's neighbour zone, differs. -/
def changeConcerns (st : Settings) (closed kept : ZoneVec) : Bool :=
  (zoneSet closed st.zone != zoneSet kept st.zone) || st.links.any fun k => zoneSet closed k.zone != zoneSet kept k.zone

/-- R110: a change of the aggregated CLOSED vector is reported. -/
def RouteEngine.closedReported (st : Settings) (closed : ZoneVec) (e : RouteEngine) : RouteEngine :=
  if changeConcerns st closed e.kept then { e with conditionJob := true } else e

/-- R119: the engine on entry to RUN. -/
def RouteEngine.enterRun (st : Settings) (e : RouteEngine) : RouteOut :=
  let e := { e with nextRound := some (st.stationId % 30 * 1000000), nextSweep := some retryTime }
  let e := st.directory.foldl (fun e r => e.create st r) (if st.homeRoom = 0 then e else e.create st st.homeRoom)
  match e.entry st.homeRoom with
  | some x => if st.homeRoom = 0 then e.work else e.work.recompute st e.kept x
  | none => e.work

end Sys2Proof.Machine
end

