-- ==== Sys2Proof/Machine/Zones.lean ====
section
/-!
DEFINITION. The Condition List (chapter 7): contributions, the spill record, the own contribution and its frames, and the
aggregated vectors. Times are list-clock readings in µs.
-/

namespace Sys2Proof.Machine

/-- R123, R124: a contribution and the spill record live 30 s. -/
def zoneLife : Nat := 30000000

/-- R126: the resend timer's limit, 10 s. -/
def resendTime : Nat := 10000000

/-- R120: both vectors are empty. -/
def Contribution.zero (c : Contribution) : Bool := decide (c.closed = 0) && decide (c.notice = 0)

/-- The source has a contribution. -/
def ConditionList.has (source : Nat) (z : ConditionList) : Bool :=
  z.contributions.any fun c => decide (c.source = source)

/-- The contributions without a source's. -/
def dropSource (source : Nat) (cs : List Contribution) : List Contribution :=
  cs.filter fun c => decide (c.source ≠ source)

/-- R120: the time last heard of a frame handled now: the list-clock reading, or, where a contribution has that reading or a later
one already, the next µs after the latest. So no two contributions share one (log entry 34). -/
def ConditionList.heardNow (z : ConditionList) : Nat := z.contributions.foldl (fun t c => max t (c.heard + 1)) z.clock

/-- A contribution heard now: it stands last in the order of times last heard, in place of its source's old one (R121). R120 gives a
source as 1..4000, and no rule discards a CONDITION frame that carries another: the model takes it and holds the contribution under
the source as it was sent (log entry 37). -/
def ConditionList.hear (source : Nat) (closed notice : ZoneVec) (z : ConditionList) : ConditionList :=
  { z with
    contributions := dropSource source z.contributions
      ++ [{ source := source, closed := closed, notice := notice, heard := z.heardNow }] }

/-- R122: the zero contribution with the oldest time last heard. -/
def ConditionList.oldestZero (z : ConditionList) : Option Contribution := z.contributions.find? Contribution.zero

/-- R123: a frame merged into the spill record. -/
def ConditionList.spill (closed notice : ZoneVec) (z : ConditionList) : ConditionList :=
  { z with spillClosed := z.spillClosed ||| closed, spillNotice := z.spillNotice ||| notice, spillAt := some z.clock }

/-- What handling a frame does to the list, and whether CONDITION_SPILL is raised. -/
structure Placed where
  list : ConditionList
  spilled : Bool
  deriving DecidableEq, Repr

/-- R121 to R123: a frame handled. -/
def ConditionList.handle (source : Nat) (closed notice : ZoneVec) (z : ConditionList) : Placed :=
  if z.has source then { list := z.hear source closed notice, spilled := false }
  else if z.contributions.length < 16 then { list := z.hear source closed notice, spilled := false }
  else
    match z.oldestZero with
    | some c =>
      { list := { z with contributions := dropSource c.source z.contributions }.hear source closed notice
        spilled := false }
    | none => { list := z.spill closed notice, spilled := true }

/-- R127: the aggregated CLOSED vector. -/
def ConditionList.closedOr (z : ConditionList) : ZoneVec :=
  z.contributions.foldl (fun v c => v ||| c.closed) (z.spillClosed ||| z.ownClosed)

/-- R127: the aggregated NOTICE vector. -/
def ConditionList.noticeOr (z : ConditionList) : ZoneVec :=
  z.contributions.foldl (fun v c => v ||| c.notice) (z.spillNotice ||| z.ownNotice)

/-- R127: both aggregates formed again. -/
def ConditionList.aggregate (z : ConditionList) : ConditionList :=
  { z with aggClosed := z.closedOr, aggNotice := z.noticeOr }

/-- R127: the two aggregates at the end of an event, against a list's aggregates before it. -/
def ConditionList.sameAggregates (z old : ConditionList) : Bool :=
  decide (z.aggClosed = old.aggClosed) && decide (z.aggNotice = old.aggNotice)

/-- R127: an event leaves the list `z` (aggregates not yet formed): they are formed, the Route Engine is told of a change of
CLOSED, and the Composer once of a change of either. -/
def State.withZones (z : ConditionList) (s : State) : State :=
  let z := z.aggregate
  let t := { s with
    zones := z
    routes := if z.aggClosed = s.zones.aggClosed then s.routes else s.routes.closedReported s.settings z.aggClosed }
  if z.sameAggregates s.zones then t
  else { t with composer := t.composer.onZones t.settings t.passNow }

/-! ## The own frame (R125, R126) -/

/-- R126: the own frame's body at this moment. -/
def ConditionList.ownBody (z : ConditionList) : Body := .condition z.ownClosed z.ownNotice

/-- R126: the own vectors are not both empty. -/
def ConditionList.declares (z : ConditionList) : Bool := decide (z.ownClosed ≠ 0) || decide (z.ownNotice ≠ 0)

/-- R126: what follows an offer of the own frame. The 1 s of a retry counts from the latest refusal, also where an own frame was pending
already (log entry 40). -/
def ConditionList.ownOffered (taken : Bool) (z : ConditionList) : ConditionList :=
  if taken then
    { z with ownPending := false, retryAt := none,
             resendAt := if z.declares then some (z.clock + resendTime) else none }
  else { z with ownPending := true, retryAt := some (z.clock + retryTime), resendAt := none }

/-- R126: an own frame is pending and is offered. -/
def State.offerOwn (s : State) : State :=
  let t := s.offer s.zones.ownBody false false
  { t with zones := t.zones.ownOffered (s.takes s.zones.ownBody) }

/-! ## The commands -/

/-- CONDITION_HANDOVER (R34, R120 to R123, R127): the head CONDITION frame is handled whole. -/
def execConditionHandover (s : State) : Result :=
  .next <|
    match s.inbound with
    | f :: rest =>
      match f.body with
      | .condition closed notice =>
        let p := s.zones.handle f.source closed notice
        let t := { s with inbound := rest, port := s.port.raiseIf p.spilled .conditionSpill }
        t.withZones p.list
      | _ => s
    | [] => s

/-- When a source's contribution expires (R124). -/
def ConditionList.expiryWait (source : Nat) (z : ConditionList) : Option Nat :=
  clockWait z.clock ((z.contributions.find? fun c => decide (c.source = source)).map (·.heard + zoneLife))

/-- CONTRIBUTION_EXPIRY (R124, R127). -/
def execContributionExpiry (source : Nat) (s : State) : Result :=
  .next <| s.after (s.zones.expiryWait source) fun s =>
    s.withZones { s.zones with contributions := dropSource source s.zones.contributions }

/-- R123: the spill record cleared. -/
def ConditionList.clearSpill (z : ConditionList) : ConditionList :=
  { z with spillClosed := 0, spillNotice := 0, spillAt := none }

/-- SPILL_CLEAR (R123, R127). -/
def execSpillClear (s : State) : Result :=
  .next <| s.after (clockWait s.zones.clock (s.zones.spillAt.map (· + zoneLife))) fun s =>
    s.withZones s.zones.clearSpill

/-- R125: POST ZONES taken in RUN. -/
def State.postZones (closed notice : ZoneVec) (s : State) : State :=
  ((s.withZones { s.zones with ownClosed := closed, ownNotice := notice }).offerOwn).answer .ok 0x0A []

/-- POST_ZONES (R125 to R127, R174, R175). -/
def execPostZones (body : List Byte) (s : State) : Result :=
  .next <| s.request 0x0A (decide (8 ≤ body.length)) inRun (fun s =>
    match parseCondition (body.take 8) with
    | some (.condition closed notice) => s.postZones closed notice
    | _ => s)

/-- OWN_FRAME_RETRY (R126): 1 s after a refusal the pending own frame is offered again. -/
def execOwnFrameRetry (s : State) : Result :=
  .next <| s.after (onlyIf s.zones.ownPending (clockWait s.zones.clock s.zones.retryAt)) State.offerOwn

/-- OWN_FRAME_RESEND (R126): the resend timer reaches 10 s. -/
def execOwnFrameResend (s : State) : Result :=
  .next <| s.after (clockWait s.zones.clock s.zones.resendAt) State.offerOwn

end Sys2Proof.Machine
end

