-- ==== Sys2Proof/Machine/ConfigMemory.lean ====
section
/-!
DEFINITION. Configuration Memory and start-up (chapter 10): RESET_N, the choice of mode, entry to each mode, program cycles, and
VERIFY WORD.
-/

namespace Sys2Proof.Machine

/-! ## RESET_N -/

/-- R170: the array that an undetermined cycle leaves; with no cycle under way it is as it was. -/
def State.otpCutShort (s : State) : List OtpCell :=
  match s.cycle with
  | some c => c.cutShort (Config.undeterminedBits s.freeCount) s.otp
  | none => s.otp

/-- How many undetermined values have been used once a cycle under way is cut short. -/
def State.freeAfterCut (s : State) : Nat := if s.cycle.isSome then s.freeCount + 1 else s.freeCount

/-- RESET_N_ASSERT (R160, R170 and each chapter's reset rule): every block at its reset values, in START. The Configuration
Memory and the pins are kept; a cycle under way is cut short. The array is locked while word 127 holds any other value than 0xFFFF
(R168), through the reset too. -/
def execResetNAssert (s : State) : Result :=
  .next { State.reset with
    pins := s.pins, otp := s.otpCutShort, locked := otpLocked s.otpCutShort, freeCount := s.freeAfterCut, pending := s.pending }

/-- PROG is honoured only together with PORT_EN (R160). -/
def progHonoured (x : Straps) : Bool := x.prog && x.portEn

/-- R160, R150, R168: what the rising edge samples and START reads: straps, PANEL_DETECT, lock state, station id field. There is no
reason but in UNASSIGNED (R161). -/
def State.sample (x : Straps) (panelDetect : Bool) (s : State) : State :=
  { s with
    reason := none
    straps := x
    panel := { s.panel with st := if panelDetect then .idle else .absent }
    locked := otpLocked s.otp
    idField := (otpRead s.otp 0).toNat }

/-- R148: the cache of FIXED holds the fixed plate, with no dependency record. -/
def fixedCache (plate : Plate) : Cache :=
  { plate := plate, keys := [], rooms := [], zoneBits := none, passMoment := { day := 0, ms := 0 }, validUntil := none,
    validUntilReached := false }

/-- R148: the Composer enters FIXED and the plate is offered once. -/
def State.offerFixed (plate : Plate) (s : State) : State :=
  { s with
    composer := { s.composer with st := .fixed, cache := some (fixedCache plate), offered := some plate }
    panel := s.panel.offer s.settings.intervalTime s.pins.panelHold plate }

/-- R167: entry to PROGRAM. -/
def State.enterProgram (s : State) : State := { s with mode := .program }.offerFixed .programming

/-- R166: entry to UNASSIGNED. -/
def State.enterUnassigned (r : Reason) (s : State) : State :=
  { s with mode := .unassigned, reason := some r }.offerFixed (.unassigned r s.idField)

/-- R149: the first pass begins. -/
def State.firstPass (s : State) : State :=
  { s with composer := { s.composer with st := .composing, pass := some s.passNow } }

/-- R165, R119, R149: entry to RUN with the treated configuration. -/
def State.enterRun (st : Settings) (s : State) : State :=
  State.firstPass <| { s with mode := .run, settings := st }.withRoutes (s.routes.enterRun st)

/-- R160, R161: START decides the mode. -/
def State.start (s : State) : State :=
  if progHonoured s.straps then s.enterProgram
  else
    match validateRecord (otpRead s.otp) with
    | some r => s.enterUnassigned r
    | none => s.enterRun (readSettings (otpRead s.otp))

/-- RESET_N_RELEASE (R160 to R167): comes about in START alone. -/
def execResetNRelease (x : Straps) (panelDetect : Bool) (s : State) : Result :=
  .next <| if s.mode = .start then (s.sample x panelDetect).start else s

/-! ## Programming (R168 to R170) -/

/-- A program cycle lasts 100 µs (R169). -/
def cycleTime : Nat := 100

/-- R169: a program cycle starts, and its request goes into hand. -/
def State.startCycle (addr : Nat) (pattern : Word) (s : State) : State :=
  { s with
    cycle := some { addr := addr, pattern := pattern, before := otpRead s.otp addr, lost := false, elapsed := 0 }
    port := s.port.takeInHand .programWord 0x0C }

/-- R169: a PROGRAM WORD request judged in PROGRAM. -/
def State.judgeProgram (addr : Nat) (pattern : Word) (s : State) : State :=
  if s.cycle.isSome then s.answer .busy 0x0C []
  else if 127 < addr then s.answer .malformed 0x0C []
  else if s.locked then s.answer .locked 0x0C []
  else if !s.pins.pgmSupply then s.answer .noSupply 0x0C []
  else s.startCycle addr pattern

/-- PROGRAM_WORD (R169, R174, R177). -/
def execProgramWord (body : List Byte) (supply : Bool) (s : State) : Result :=
  .next <| (s.supplyLevel supply).request 0x0C (decide (3 ≤ body.length)) inProgram (fun s =>
    match body with
    | a :: p1 :: p0 :: _ => s.judgeProgram a.toNat (p1 ++ p0)
    | _ => s)

/-- R169: a cycle ends with its supply kept: the word holds w AND v. -/
def State.cycleDone (c : ProgramCycle) (s : State) : State :=
  let cells := otpPlace c.addr (c.before &&& c.pattern) s.otp
  { s with
    otp := cells, cycle := none
    locked := if c.addr = 127 then otpLocked cells else s.locked
    port := s.port.complete .ok 0x0C [] }

/-- R170: a cycle ends with its supply lost. -/
def State.cycleLost (c : ProgramCycle) (s : State) : State :=
  let cells := c.cutShort (Config.undeterminedBits s.freeCount) s.otp
  { s with
    otp := cells, cycle := none, freeCount := s.freeCount + 1
    locked := if c.addr = 127 then otpLocked cells else s.locked
    port := s.port.complete .supplyLost 0x0C [] }

/-- R169, R170: the end of the cycle under way. -/
def State.endCycle (s : State) : State :=
  match s.cycle with
  | some c => if c.lost then s.cycleLost c else s.cycleDone c
  | none => s

/-- When the cycle under way ends (R169). -/
def State.cycleWait (s : State) : Option Nat := s.cycle.map fun c => cycleTime - c.elapsed

/-- PROGRAM_CYCLE_END (R168 to R170). -/
def execProgramCycleEnd (s : State) : Result := .next <| s.after s.cycleWait State.endCycle

/-- PGM_SUPPLY_FALL (R170). -/
def execPgmSupplyFall (s : State) : Result := .next (s.supplyLevel false)

/-! ## Verifying (R171) -/

/-- R171: a VERIFY WORD request judged in PROGRAM. -/
def State.judgeVerify (addr : Nat) (s : State) : State :=
  if s.cycle.isSome then s.answer .busy 0x0D []
  else if 127 < addr then s.answer .malformed 0x0D []
  else if s.pins.pgmSupply then s.answer .supplyPresent 0x0D []
  else s.answer .ok 0x0D (byte addr :: be16 (otpRead s.otp addr).toNat)

/-- VERIFY_WORD (R171, R174). -/
def execVerifyWord (body : List Byte) (supply : Bool) (s : State) : Result :=
  .next <| (s.supplyLevel supply).request 0x0D (decide (1 ≤ body.length)) inProgram (fun s =>
    match body with
    | a :: _ => s.judgeVerify a.toNat
    | [] => s)

end Sys2Proof.Machine
end

