-- ==== Sys2Proof/Machine/LocalPort.lean ====
section
/-!
DEFINITION. The Local Port's requests (chapter 11) that no other file holds: status, notices, attention enables, the plate, the
requests taken into hand, codes that name no request, and the bytes of a transaction on SDI and SDO.
-/

namespace Sys2Proof.Machine

/-! ## READ STATUS -/

/-- The straps byte of the status block. 12.2 gives bits 4..7 no value; DESIGN CHOICE: 0 (log entry 42). -/
def strapsCode (x : Straps) : Nat :=
  bitIf x.lineRate 0 + bitIf x.listenOnly 1 + bitIf x.prog 2 + bitIf x.portEn 3

/-- The 18 enables as they are sent: three bytes. 12.2 gives bits 18..23 no value as they are sent; DESIGN CHOICE: 0
(log entry 42). -/
def enablesBytes (e : BitVec 18) : List Byte := be24 e.toNat

/-- The rate trim in two's complement. -/
def trimBytes (trim : Int) : List Byte := be16 (BitVec.ofInt 16 trim).toNat

/-- R58: the part of the status block that the Time Unit gives, in one reading. -/
def TimeUnit.statusBytes (t : TimeUnit) : List Byte :=
  [byte t.sync.code, byte t.epoch, byte t.day] ++ be32 t.ms ++ trimBytes t.trim

/-- R176: the status block of 25 bytes. 12.2 gives no value to bits 4..7 of the straps and of the line states or to bits 18..23 of
the enables; DESIGN CHOICE: 0 (log entry 42). -/
def State.statusBlock (s : State) : List Byte :=
  [byte s.mode.code, byte (reasonCode s.reason), byte (strapsCode s.straps)] ++ s.time.statusBytes
    ++ [byte (s.lineA.st.code + 4 * s.lineB.st.code), byte s.panel.st.code] ++ be16 s.panel.lastAck
    ++ be16 s.port.notices.toNat ++ enablesBytes s.port.enables
    ++ [byte s.sessions.entries.length, byte s.sessions.changed.length] ++ be16 s.routes.entries.length

/-- READ_STATUS (R176). -/
def execReadStatus (_body : List Byte) (s : State) : Result :=
  .next <| s.request 0x01 true inAnyMode fun s => s.answer .ok 0x01 s.statusBlock

/-! ## Notices and enables -/

/-- R178: a set of notices acknowledged, and the set as it then stands. -/
def State.ackNotices (named : BitVec 16) (s : State) : State :=
  { s with port := s.port.acknowledge named }.answer .ok 0x02 (be16 (s.port.acknowledge named).notices.toNat)

/-- ACK_NOTICES (R175, R178). -/
def execAckNotices (body : List Byte) (s : State) : Result :=
  .next <| s.request 0x02 (decide (2 ≤ body.length)) inRun (fun s =>
    match body with
    | h :: l :: _ => s.ackNotices (h ++ l)
    | _ => s)

/-- R184: the enables a body names; bits 18..23 are disregarded. -/
def namedEnables (h m l : Byte) : BitVec 18 := (h ++ m ++ l).setWidth 18

/-- R175: the enables become these, and are answered. -/
def State.putEnables (code : Nat) (e : BitVec 18) (s : State) : State :=
  { s with port := { s.port with enables := e } }.answer .ok code (enablesBytes e)

/-- SET_ATTENTION_ENABLES (R175, R179). -/
def execSetAttentionEnables (body : List Byte) (s : State) : Result :=
  .next <| s.request 0x03 (decide (3 ≤ body.length)) inRun (fun s =>
    match body with
    | h :: m :: l :: _ => s.putEnables 0x03 (s.port.enables ||| namedEnables h m l)
    | _ => s)

/-- CLEAR_ATTENTION_ENABLES (R175, R179). -/
def execClearAttentionEnables (body : List Byte) (s : State) : Result :=
  .next <| s.request 0x04 (decide (3 ≤ body.length)) inRun (fun s =>
    match body with
    | h :: m :: l :: _ => s.putEnables 0x04 (s.port.enables &&& ~~~namedEnables h m l)
    | _ => s)

/-! ## READ PLATE -/

/-- The cache is valid in VALID and in FIXED (chapter 8). -/
def Composer.cacheValid (c : Composer) : Bool := decide (c.st = .valid) || decide (c.st = .fixed)

/-- The response data of READ PLATE (chapter 12, 12.2): the plate's sequence field is sent as 0. -/
def State.plateData (plate : Plate) (s : State) : List Byte :=
  [byte (bitIf s.composer.cacheValid 0)] ++ be16 s.panel.lastAck ++ be16 (encodePlate 0 plate).length
    ++ encodePlate 0 plate

/-- R175, R179: the cached plate, the delivered flag cleared; NOT_FOUND while the cache holds none. -/
def State.readPlate (s : State) : State :=
  match s.composer.cache with
  | some k => { s with port := { s.port with delivered := false } }.answer .ok 0x08 (s.plateData k.plate)
  | none => s.answer .notFound 0x08 []

/-- READ_PLATE (R175). -/
def execReadPlate (_body : List Byte) (s : State) : Result := .next <| s.request 0x08 true inRun State.readPlate

/-! ## Requests that take time (R177) -/

/-- R173: a request goes into hand. -/
def State.takeInHand (h : InHand) (code : Nat) (s : State) : State := { s with port := s.port.takeInHand h code }

/-- R184: a POST SESSION body holds as many bytes as 1 plus its record-length byte. -/
def postFormOk (body : List Byte) : Bool :=
  match body with
  | n :: bs => decide (n.toNat ≤ bs.length)
  | [] => false

/-- The record of a POST SESSION body; bytes after it are disregarded (R172). -/
def postRecord (body : List Byte) : List Byte :=
  match body with
  | n :: bs => bs.take n.toNat
  | [] => []

/-- POST_SESSION (R177): the record is loaded into the posting buffer. -/
def execPostSession (body : List Byte) (s : State) : Result :=
  .next <| s.request 0x05 (postFormOk body) inRun fun s =>
    { s with sessions := { s.sessions with posting := some (postRecord body) } }.takeInHand .postSession 0x05

/-- R177: a READ SESSION by its index byte: 64..254 is answered at once. -/
def State.takeReadSession (body : List Byte) (s : State) : State :=
  match body with
  | i :: _ =>
    if 63 < i.toNat ∧ i.toNat < 0xFF then s.answer .malformed 0x06 []
    else s.takeInHand (.readSession i.toNat) 0x06
  | [] => s

/-- READ_SESSION_BY_INDEX (R177, R80). -/
def execReadSessionByIndex (body : List Byte) (s : State) : Result :=
  .next <| s.request 0x06 (decide (1 ≤ body.length)) inRun (State.takeReadSession body)

/-- READ_SESSION_NEXT_CHANGED (R177, R81): the same code; the index byte is 0xFF. -/
def execReadSessionNextChanged (body : List Byte) (s : State) : Result :=
  .next <| s.request 0x06 (decide (1 ≤ body.length)) inRun (State.takeReadSession body)

/-- R177: a READ ROUTE for room 0 or a room above 1023 is answered at once. -/
def State.takeReadRoute (room : Nat) (s : State) : State :=
  if roomOk room then s.takeInHand (.readRoute room) 0x07 else s.answer .malformed 0x07 []

/-- READ_ROUTE (R177, R117). -/
def execReadRoute (body : List Byte) (s : State) : Result :=
  .next <| s.request 0x07 (decide (2 ≤ body.length)) inRun (fun s =>
    match body with
    | h :: l :: _ => s.takeReadRoute (val16 h l)
    | _ => s)

/-! ## Codes that name no request -/

/-- REQUEST_CODE_NAMES_NO_REQUEST (R174, R184): a code above 0x0D is answered MALFORMED naming it. A code up to 0x0D is another
command's, and 0x00 takes no request (R172): nothing happens. -/
def execRequestCodeNamesNoRequest (code : Byte) (_body : List Byte) (s : State) : Result :=
  .next <| if 0x0D < code.toNat then s.request code.toNat false inAnyMode id else s

/-! ## A transaction on the wires (R172) -/

/-- R172: the byte of SDO at a place counted from the fall of CS_N: the response buffer's content, and 0x00 beyond its end. -/
def LocalPort.sdoByte (i : Nat) (p : LocalPort) : Byte := p.response.getD i 0x00

/-- R172: what SDO carries in the first `n` bytes of a transaction; none where it is not driven: with CS_N high, or with PORT_EN
sampled low. All of them come from the response that the buffer holds in the state given: what a completion within the transaction
does to the bytes still to be clocked out is left open by the manual (log entry 41). -/
def State.sdo (csLow : Bool) (n : Nat) (s : State) : Option (List Byte) :=
  if s.straps.portEn && csLow then some ((List.range n).map (s.port.sdoByte ·)) else none

/-- Eight bits as a byte, the most significant first. -/
def byteOfBits (bits : List Bool) : Byte := bits.foldl (fun x b => (x <<< 1) ||| (if b then 1#8 else 0#8)) 0#8

/-- R172: the whole bytes of the bits sampled on SDI; a partial byte at the end is disregarded. -/
def wholeBytes : List Bool → List Byte
  | a :: b :: c :: d :: e :: f :: g :: h :: rest => byteOfBits [a, b, c, d, e, f, g, h] :: wholeBytes rest
  | _ => []

/-- R172, R184: the command that a transaction's whole bytes on SDI come to, the first the request code and the others its body; none
for a read transaction, which has no whole byte or the no-request code, and takes no request. `supply` is the level of PGM_SUPPLY
as the request is taken. -/
def transaction (supply : Bool) : List Byte → Option Instr
  | [] => none
  | code :: body =>
    match code.toNat with
    | 0x00 => none
    | 0x01 => some (.readStatus body)
    | 0x02 => some (.ackNotices body)
    | 0x03 => some (.setAttentionEnables body)
    | 0x04 => some (.clearAttentionEnables body)
    | 0x05 => some (.postSession body)
    | 0x06 => some (if body.head? = some 0xFF#8 then .readSessionNextChanged body else .readSessionByIndex body)
    | 0x07 => some (.readRoute body)
    | 0x08 => some (.readPlate body)
    | 0x09 => some (.setTime body)
    | 0x0A => some (.postZones body)
    | 0x0B => some (.lineRestart body)
    | 0x0C => some (.programWord body supply)
    | 0x0D => some (.verifyWord body supply)
    | _ => some (.requestCodeNamesNoRequest code body)

end Sys2Proof.Machine
end

