-- ==== Sys2Proof/Machine/Dispatch.lean ====
section
/-! DEFINITION. One arm per command: exec is a command's effect on everything but the queue. -/

namespace Sys2Proof.Machine

def exec (i : Instr) (s : State) : Host.Outcome State Fault Refusal :=
  match i with
  | .resetNAssert => Sys2Proof.Machine.execResetNAssert s
  | .resetNRelease straps panelDetect => Sys2Proof.Machine.execResetNRelease straps panelDetect s
  | .lineIdleGap line draw => Sys2Proof.Machine.execLineIdleGap line draw s
  | .lineBusy line => Sys2Proof.Machine.execLineBusy line s
  | .backoffExpiry line => Sys2Proof.Machine.execBackoffExpiry line s
  | .echoFailure line => Sys2Proof.Machine.execEchoFailure line s
  | .collision line => Sys2Proof.Machine.execCollision line s
  | .frameSent line => Sys2Proof.Machine.execFrameSent line s
  | .carrierStuck line => Sys2Proof.Machine.execCarrierStuck line s
  | .stuckLineRecovery line => Sys2Proof.Machine.execStuckLineRecovery line s
  | .startDelimiter line => Sys2Proof.Machine.execStartDelimiter line s
  | .frameEnd line bytes => Sys2Proof.Machine.execFrameEnd line bytes s
  | .duplicateEntryExpiry => Sys2Proof.Machine.execDuplicateEntryExpiry s
  | .beaconHandover => Sys2Proof.Machine.execBeaconHandover s
  | .roundEnd => Sys2Proof.Machine.execRoundEnd s
  | .beaconTimerExpiry => Sys2Proof.Machine.execBeaconTimerExpiry s
  | .minuteEvent => Sys2Proof.Machine.execMinuteEvent s
  | .setTime body => Sys2Proof.Machine.execSetTime body s
  | .inboundMerge => Sys2Proof.Machine.execInboundMerge s
  | .postingBufferMerge => Sys2Proof.Machine.execPostingBufferMerge s
  | .housekeepingRemoval => Sys2Proof.Machine.execHousekeepingRemoval s
  | .refreshDue slot => Sys2Proof.Machine.execRefreshDue slot s
  | .refreshScanGrant => Sys2Proof.Machine.execRefreshScanGrant s
  | .tombstoneExpiry slot => Sys2Proof.Machine.execTombstoneExpiry slot s
  | .composerSessionRead => Sys2Proof.Machine.execComposerSessionRead s
  | .localPortSessionRead => Sys2Proof.Machine.execLocalPortSessionRead s
  | .advertHandover => Sys2Proof.Machine.execAdvertHandover s
  | .advertJob => Sys2Proof.Machine.execAdvertJob s
  | .conditionRecomputation => Sys2Proof.Machine.execConditionRecomputation s
  | .pinSetUpdate => Sys2Proof.Machine.execPinSetUpdate s
  | .frameBuilding => Sys2Proof.Machine.execFrameBuilding s
  | .sweepTimerExpiry => Sys2Proof.Machine.execSweepTimerExpiry s
  | .sweep => Sys2Proof.Machine.execSweep s
  | .roundDue => Sys2Proof.Machine.execRoundDue s
  | .roundRetry => Sys2Proof.Machine.execRoundRetry s
  | .promptDue => Sys2Proof.Machine.execPromptDue s
  | .composerRouteRead => Sys2Proof.Machine.execComposerRouteRead s
  | .localPortRouteRead => Sys2Proof.Machine.execLocalPortRouteRead s
  | .conditionHandover => Sys2Proof.Machine.execConditionHandover s
  | .contributionExpiry source => Sys2Proof.Machine.execContributionExpiry source s
  | .spillClear => Sys2Proof.Machine.execSpillClear s
  | .postZones body => Sys2Proof.Machine.execPostZones body s
  | .ownFrameRetry => Sys2Proof.Machine.execOwnFrameRetry s
  | .ownFrameResend => Sys2Proof.Machine.execOwnFrameResend s
  | .validUntilReached => Sys2Proof.Machine.execValidUntilReached s
  | .passEnd => Sys2Proof.Machine.execPassEnd s
  | .panelIntervalExpiry => Sys2Proof.Machine.execPanelIntervalExpiry s
  | .plateClockedOut => Sys2Proof.Machine.execPlateClockedOut s
  | .panelAck busy => Sys2Proof.Machine.execPanelAck busy s
  | .ackTimeout => Sys2Proof.Machine.execAckTimeout s
  | .panelBusyFall => Sys2Proof.Machine.execPanelBusyFall s
  | .busyTimeout => Sys2Proof.Machine.execBusyTimeout s
  | .faultTimerExpiry => Sys2Proof.Machine.execFaultTimerExpiry s
  | .panelHoldFall => Sys2Proof.Machine.execPanelHoldFall s
  | .panelHoldRise => Sys2Proof.Machine.execPanelHoldRise s
  | .readStatus body => Sys2Proof.Machine.execReadStatus body s
  | .ackNotices body => Sys2Proof.Machine.execAckNotices body s
  | .setAttentionEnables body => Sys2Proof.Machine.execSetAttentionEnables body s
  | .clearAttentionEnables body => Sys2Proof.Machine.execClearAttentionEnables body s
  | .readPlate body => Sys2Proof.Machine.execReadPlate body s
  | .lineRestart body => Sys2Proof.Machine.execLineRestart body s
  | .postSession body => Sys2Proof.Machine.execPostSession body s
  | .readSessionByIndex body => Sys2Proof.Machine.execReadSessionByIndex body s
  | .readSessionNextChanged body => Sys2Proof.Machine.execReadSessionNextChanged body s
  | .readRoute body => Sys2Proof.Machine.execReadRoute body s
  | .programWord body supply => Sys2Proof.Machine.execProgramWord body supply s
  | .programCycleEnd => Sys2Proof.Machine.execProgramCycleEnd s
  | .pgmSupplyFall => Sys2Proof.Machine.execPgmSupplyFall s
  | .verifyWord body supply => Sys2Proof.Machine.execVerifyWord body supply s
  | .requestCodeNamesNoRequest code body => Sys2Proof.Machine.execRequestCodeNamesNoRequest code body s

end Sys2Proof.Machine
end

