-- ==== Sys2Proof/Machine/Idle.lean ====
section
/-!
DEFINITION. What the block does when no command waits: the events it brings about by itself, when each is due, and the passing
of one µs. Log entry 6.
-/

namespace Sys2Proof.Machine

/-- When the block itself brings a command about: µs from now, or none where it does not, or where only the outside can say that
it happens. Events with no timer of their own are due as soon as they can do anything. -/
def State.ownWait (c : Instr) (s : State) : Option Nat :=
  match c with
  | .backoffExpiry l => s.backoffWait l
  | .frameSent l => s.sentWait l
  | .carrierStuck l => if (s.line l).carrier then s.stuckWait l else none
  | .stuckLineRecovery l =>
    onlyIf (s.running && decide ((s.line l).st = .stuck) && !(s.line l).carrier)
      (some (50000 * s.bitTime - (s.line l).idleTime))
  | .duplicateEntryExpiry => s.dups.head?.map fun d => dupLimit - d.age
  | .roundEnd => timerWait roundLimit s.time.roundTimer
  | .beaconTimerExpiry => timerWait beaconLimit s.time.beaconTimer
  | .minuteEvent => s.time.minuteWait
  | .refreshDue slot => s.sessions.refreshWait slot
  | .tombstoneExpiry slot => clockWait s.sessions.clock ((s.sessions.atSlot slot).bind (·.expiry))
  | .sweepTimerExpiry => clockWait s.routes.clock s.routes.nextSweep
  | .roundDue => clockWait s.routes.clock s.routes.nextRound
  | .roundRetry => s.routes.retryWait
  | .promptDue => clockWait s.routes.clock s.routes.promptAt
  | .contributionExpiry source => s.zones.expiryWait source
  | .spillClear => clockWait s.zones.clock (s.zones.spillAt.map (· + zoneLife))
  | .ownFrameRetry => onlyIf s.zones.ownPending (clockWait s.zones.clock s.zones.retryAt)
  | .ownFrameResend => clockWait s.zones.clock s.zones.resendAt
  | .validUntilReached => s.validUntilWait
  | .panelIntervalExpiry => timerWait s.settings.intervalTime s.panel.interval
  | .plateClockedOut => s.panel.clockWait
  | .ackTimeout => onlyIf s.panel.isAwaiting (timerWait ackLimit s.panel.ackTimer)
  | .busyTimeout => onlyIf (s.panel.isRefreshing && s.pins.panelBusy) (timerWait busyLimit s.panel.busyTimer)
  | .faultTimerExpiry => onlyIf (decide (s.panel.st = .fault)) (timerWait faultLimit s.panel.faultTimer)
  | .programCycleEnd => s.cycleWait
  | .beaconHandover | .inboundMerge | .postingBufferMerge | .housekeepingRemoval | .refreshScanGrant
  | .composerSessionRead | .localPortSessionRead | .advertHandover | .advertJob | .conditionRecomputation
  | .pinSetUpdate | .frameBuilding | .sweep | .composerRouteRead | .localPortRouteRead | .conditionHandover
  | .passEnd => some 0
  | .resetNAssert | .resetNRelease _ _ | .lineIdleGap _ _ | .lineBusy _ | .echoFailure _ | .collision _
  | .startDelimiter _ | .frameEnd _ _ | .setTime _ | .postZones _ | .panelAck _ | .panelBusyFall | .panelHoldFall
  | .panelHoldRise | .readStatus _ | .ackNotices _ | .setAttentionEnables _ | .clearAttentionEnables _ | .readPlate _
  | .lineRestart _ | .postSession _ | .readSessionByIndex _ | .readSessionNextChanged _ | .readRoute _
  | .programWord _ _ | .pgmSupplyFall | .verifyWord _ _ | .requestCodeNamesNoRequest _ _ => none

/-- The events the block can bring about by itself, in the order in which those due at one moment are taken. -/
def State.ownEvents (s : State) : List Instr :=
  [.programCycleEnd, .frameSent .a, .frameSent .b, .backoffExpiry .a, .backoffExpiry .b, .carrierStuck .a,
    .carrierStuck .b, .stuckLineRecovery .a, .stuckLineRecovery .b, .duplicateEntryExpiry, .roundEnd, .minuteEvent,
    .beaconTimerExpiry, .validUntilReached, .spillClear, .ownFrameRetry, .ownFrameResend, .roundDue, .sweepTimerExpiry,
    .promptDue, .roundRetry, .plateClockedOut, .ackTimeout, .busyTimeout, .faultTimerExpiry, .panelIntervalExpiry]
    ++ s.zones.contributions.map (fun c => .contributionExpiry c.source)
    ++ s.sessions.entries.map (fun e => .tombstoneExpiry e.slot)
    ++ s.sessions.entries.map (fun e => .refreshDue e.slot)
    ++ [.beaconHandover, .inboundMerge, .advertHandover, .conditionHandover, .postingBufferMerge, .composerSessionRead,
      .localPortSessionRead, .housekeepingRemoval, .refreshScanGrant, .composerRouteRead, .localPortRouteRead,
      .conditionRecomputation, .pinSetUpdate, .advertJob, .frameBuilding, .sweep, .passEnd]

/-- A command changes the state. -/
def State.changedBy (c : Instr) (s : State) : Bool :=
  match exec c s with
  | .next t => decide (t ≠ s)
  | .fault _ => false
  | .refused _ => false

/-- The block brings the event about now. -/
def State.dueNow (s : State) (c : Instr) : Bool := decide (s.ownWait c = some 0) && s.changedBy c

/-- What the block does of an event by itself in one step: a job on the entries of the Route Table goes on by one entry operation, so
that a request can come, and its read be served, between any two of them (R101, R117; log entry 9); any other event takes place as
it does at its command. -/
def State.ownStep (c : Instr) (s : State) : Host.Outcome State Fault Refusal :=
  match c with
  | .conditionRecomputation => .next (s.doJob .condition (some 1))
  | .pinSetUpdate => .next (s.doJob .pins (some 1))
  | .advertJob => .next (s.doJob .advert (some 1))
  | .sweep => .next (s.doJob .sweep (some 1))
  | c => exec c s

/-- No command waits: the first event due now takes place, or else one µs passes. -/
def State.idle (s : State) : Host.Outcome State Fault Refusal :=
  match s.ownEvents.find? s.dueNow with
  | some c => s.ownStep c
  | none => .next (s.elapse 1)

end Sys2Proof.Machine
end

