-- ==== Sys2Proof/Safety.lean ====
section
/-!
DEFINITION. What the claims mean by a sound state: one predicate per part of the block. Each says what a chapter promises of that
part in every state a run can reach; a claim names the one it needs.
-/

namespace Sys2Proof.Machine

/-- The Configuration Memory (R168 to R170): canonical, addresses 0..127, the lock state as word 127 gives it, and a cycle only in
PROGRAM, unlocked, with the value its word still holds. -/
structure MemoryOk (s : State) : Prop where
  wf : otpWf s.otp = true
  inRange : ∀ c ∈ s.otp, c.1 ≤ 127
  lock : s.locked = otpLocked s.otp
  cycle : ∀ c, s.cycle = some c → s.mode = .program ∧ s.locked = false ∧ c.addr ≤ 127 ∧ c.before = otpRead s.otp c.addr

/-- The Transmit Queue (R15, R17). -/
structure QueueOk (s : State) : Prop where
  bound : s.txQueue.length ≤ 16
  live : ∀ f ∈ s.txQueue, f.live = true
  oneCondition : s.txQueue.countP TxFrame.replaceable ≤ 1

/-- The stores of Reception and the deviation list (R26, R27, R33, R47). -/
structure ReceptionOk (s : State) : Prop where
  inbound : s.inbound.length ≤ 24
  dups : s.dups.length ≤ 64
  young : ∀ d ∈ s.dups, d.age < 2000000
  devs : s.time.devs.length ≤ 15

/-- The Session Table (R61, R81): at most 64 entries, one to a slot and one to a key, no two with one arrival time and in the order of
these, changed marks of held entries only, and refresh requests of held entries only (R74). -/
structure TableOk (tb : SessionTable) : Prop where
  slots : ∀ e ∈ tb.entries, e.slot < 64
  slotsOnce : (tb.entries.map (·.slot)).Nodup
  keysOnce : (tb.entries.map (·.record.key)).Nodup
  arrivalOrder : (tb.entries.map (·.arrival)).Pairwise (· < ·)
  marksOnce : tb.changed.Nodup
  marksHeld : ∀ i ∈ tb.changed, ∃ e ∈ tb.entries, e.slot = i
  requestsHeld : ∀ q ∈ tb.refreshReqs, ∃ e ∈ tb.entries, e.slot = q.2

/-- R128, R166, R167, R19, R36, R57, R83, R119: outside RUN these blocks keep their reset values; in START the Composer and the
Panel Port do so too (R148, R159). -/
structure QuietOutsideRun (s : State) : Prop where
  lines : s.mode ≠ .run → s.lineA = Line.reset ∧ s.lineB = Line.reset
  queue : s.mode ≠ .run → s.txQueue = [] ∧ s.ownSeq = 0
  sorter : s.mode ≠ .run → s.inbound = [] ∧ s.dups = []
  time : s.mode ≠ .run → s.time = TimeUnit.reset
  sessions : s.mode ≠ .run → s.sessions = SessionTable.reset
  routes : s.mode ≠ .run → s.routes = RouteEngine.reset
  zones : s.mode ≠ .run → s.zones = ConditionList.reset
  noPass : s.mode ≠ .run → s.composer.pass = none
  start : s.mode = .start → s.composer = Composer.reset ∧ s.panel = PanelPort.reset

/-- The Route Table (R99): at most 256 entries, in strictly ascending room order; the prompt set and the pin set, also one that waits,
hold each room once, in ascending order (R115, R138); the job in hand is one on entries, with an operation left (R101). -/
structure RoutesOk (s : State) : Prop where
  quiet : QuietOutsideRun s
  bound : s.routes.entries.length ≤ 256
  ascending : (s.routes.entries.map (·.room)).Pairwise (· < ·)
  promptOrder : s.routes.promptSet.Pairwise (· < ·)
  pinOrder : s.routes.pinSet.Pairwise (· < ·)
  waitingPins : ∀ pins, s.routes.pinJob = some pins → pins.Pairwise (· < ·)
  inHand : ∀ h, s.routes.inHand = some h → h.left ≠ [] ∧ h.job ≠ .frames

/-- The line has nothing to send and sends nothing. -/
structure LineSilent (x : Line) : Prop where
  noBeacon : x.beaconDue = false
  noCurrent : x.beaconCurrent = false
  released : x.driverEnable = false

/-- R19: a station with LISTEN_ONLY set holds nothing to send and drives neither line. -/
structure ListenOnlySilent (s : State) : Prop where
  quiet : QuietOutsideRun s
  queue : s.straps.listenOnly = true → s.txQueue = [] ∧ s.ownSeq = 0
  lineA : s.straps.listenOnly = true → LineSilent s.lineA
  lineB : s.straps.listenOnly = true → LineSilent s.lineB

/-- The counter and the trim in their ranges (R37, R51 to R53). -/
structure ClockOk (t : TimeUnit) : Prop where
  day : t.day < 256
  ms : t.ms < 86400000
  frac : t.frac < 1000000000
  trim : -400 ≤ t.trim ∧ t.trim ≤ 400
  missed : t.missed ≤ 3
  outBand : t.outBand ≤ 2

/-- The Condition List (R120, R123, R127). -/
structure ZonesOk (z : ConditionList) : Prop where
  bound : z.contributions.length ≤ 16
  sourcesOnce : (z.contributions.map (·.source)).Nodup
  heardOrder : (z.contributions.map (·.heard)).Pairwise (· < ·)
  clear : z.spillAt = none → z.spillClosed = 0 ∧ z.spillNotice = 0
  closed : z.aggClosed = z.closedOr
  notice : z.aggNotice = z.noticeOr

/-- The Composer (R139, R146, R147): a pass runs in COMPOSING and FINAL_PASS alone, a plate is held in VALID, the discard count
is at most 3, and the late mark is set in FINAL_PASS alone. -/
structure ComposerOk (s : State) : Prop where
  quiet : QuietOutsideRun s
  pass : s.composer.pass.isSome = true ↔ s.composer.st = .composing ∨ s.composer.st = .finalPass
  cache : s.composer.st = .valid → s.composer.cache.isSome = true
  discard : s.composer.discard ≤ 3
  late : s.composer.late = true → s.composer.st = .finalPass

/-- The Local Port (R169, R177): the posting buffer and the program cycle belong to the request in hand. -/
structure PortOk (s : State) : Prop where
  posting : s.sessions.posting.isSome = true ↔ s.port.inHand = some .postSession
  cycle : s.cycle.isSome = true ↔ s.port.inHand = some .programWord

/-- The Panel Port (R150, R152, R156, R158): a plate in delivery carries the next attempt sequence until it is acknowledged and
the acknowledged one afterwards, and a panel that is ABSENT delivers nothing. -/
structure PanelOk (s : State) : Prop where
  quiet : QuietOutsideRun s
  before : s.panel.isSending = true ∨ s.panel.isAwaiting = true → s.panel.attemptSeq = (s.panel.lastAck + 1) % 65536
  after : s.panel.isRefreshing = true → s.panel.attemptSeq = s.panel.lastAck
  ackRange : s.panel.lastAck < 65536
  absent : s.panel.st = .absent → s.panel.delivery = none ∧ s.panel.lastAck = 65535
  phase : s.panel.st ≠ .fault → s.panel.phase = none

/-- The arrival time of a merge (R61): the earliest reading from the table clock's on that is later than every held entry's. That it is
not always the clock's reading itself is the model's choice (log entry 34). -/
structure ArrivalOf (tb : SessionTable) (a : Nat) : Prop where
  now : tb.clock ≤ a
  last : ∀ e ∈ tb.entries, e.arrival < a
  first : ∀ b, tb.clock ≤ b → (∀ e ∈ tb.entries, e.arrival < b) → a ≤ b

/-- The time last heard of a CONDITION frame handled now (R120), chosen as `ArrivalOf` is (log entry 34). -/
structure HearingOf (z : ConditionList) (a : Nat) : Prop where
  now : z.clock ≤ a
  last : ∀ c ∈ z.contributions, c.heard < a
  first : ∀ b, z.clock ≤ b → (∀ c ∈ z.contributions, c.heard < b) → a ≤ b

/-- R105: the victim of a replacement: an unpinned entry; of these the worst ANY best, then the lowest change count, then the highest
room number. -/
structure VictimOf (e : RouteEngine) (v : RouteEntry) : Prop where
  held : v ∈ e.entries
  unpinned : v.pinned = false
  worst : ∀ x ∈ e.entries, x.pinned = false → x ≠ v →
    x.any.cost.better v.any.cost = true ∨ (v.any.cost.better x.any.cost = false ∧
      (v.changeCount < x.changeCount ∨ (v.changeCount = x.changeCount ∧ x.room < v.room)))

/-- The Local Port can take a request in a mode (R172 to R174): PORT_EN sampled high, nothing in hand. -/
structure PortReady (m : Mode) (s : State) : Prop where
  mode : s.mode = m
  enabled : s.straps.portEn = true
  free : s.port.inHand = none

/-- A response: status code, request code, data. -/
def State.responds (bytes : List Byte) (s : State) : State := { s with port := { s.port with response := bytes } }

/-- The request in hand is done with a response. -/
def State.finishes (bytes : List Byte) (s : State) : State :=
  { s with port := { s.port with response := bytes, inHand := none } }

/-- The code of the request a command is, if it is one of the thirteen (chapter 12, 12.2). -/
def requestCode : Instr → Option Byte
  | .readStatus _ => some 0x01
  | .ackNotices _ => some 0x02
  | .setAttentionEnables _ => some 0x03
  | .clearAttentionEnables _ => some 0x04
  | .postSession _ => some 0x05
  | .readSessionByIndex _ => some 0x06
  | .readSessionNextChanged _ => some 0x06
  | .readRoute _ => some 0x07
  | .readPlate _ => some 0x08
  | .setTime _ => some 0x09
  | .postZones _ => some 0x0A
  | .lineRestart _ => some 0x0B
  | .programWord _ _ => some 0x0C
  | .verifyWord _ _ => some 0x0D
  | _ => none

/-- The body is shorter than the request's code requires (R184). -/
def bodyShort : Instr → Prop
  | .ackNotices body => body.length < 2
  | .setAttentionEnables body => body.length < 3
  | .clearAttentionEnables body => body.length < 3
  | .postSession body => body = [] ∨ ∃ n rest, body = n :: rest ∧ rest.length < n.toNat
  | .readSessionByIndex body => body = []
  | .readSessionNextChanged body => body = []
  | .readRoute body => body.length < 2
  | .setTime body => body.length < 5
  | .postZones body => body.length < 8
  | .programWord body _ => body.length < 3
  | .verifyWord body _ => body = []
  | _ => False

/-- The request is allowed in a mode (R174). -/
def allowedIn (c : Instr) (m : Mode) : Prop :=
  match c with
  | .readStatus _ => m ≠ .start
  | .programWord _ _ => m = .program
  | .verifyWord _ _ => m = .program
  | _ => m = .run

/-- PROGRAM WORD and VERIFY WORD tell the level of PGM_SUPPLY as they are taken. -/
def State.sampled (c : Instr) (s : State) : State :=
  match c with
  | .programWord _ supply => s.supplyLevel supply
  | .verifyWord _ supply => s.supplyLevel supply
  | _ => s

/-- R95: no entry's LEVEL best ranks better than its ANY best. -/
def LevelBelowAny (s : State) : Prop := ∀ x ∈ s.routes.entries, x.level.cost.better x.any.cost = false

end Sys2Proof.Machine
end

