-- ==== Sys2Proof/Certificates/Slice0/Obligations.lean ====
section
/-!
DEFINITION. The statements for the provers: one Prop each, from the numbered rules of the spec. A `Claims` Prop is a part of the
obligation that stands after the last of its parts. Where a statement rests on the model's own choice its docstring names the log
entry.
-/

open Sys2Proof Sys2Proof.Machine

/-! ## The machine -/

/-- A step takes the command at the front of the queue and runs it on the state with the queue's rest. -/
def Obligations.StepRunsFrontCommand : Prop :=
  ∀ (c : Instr) (rest : List Instr) (s : State),
    step { s with pending := c :: rest } = exec c { s with pending := rest }

/-- The model's choice (log entries 6 and 9): on an empty queue the first event the block itself brings about now takes place as it does
at its command, but that a job on the entries of the Route Table goes on by one entry operation; with none due, one µs passes. -/
def Obligations.EmptyQueueLetsTheBlockGoOn : Prop :=
  ∀ s : State, s.pending = [] →
    ((∀ c ∈ s.ownEvents, s.dueNow c = false) → step s = .next (s.elapse 1)) ∧
    (∀ before c after, s.ownEvents = before ++ c :: after → (∀ d ∈ before, s.dueNow d = false) → s.dueNow c = true →
      ((∀ j, (j, c) ∉ [(Job.condition, .conditionRecomputation), (.pins, .pinSetUpdate), (.advert, .advertJob), (.sweep, .sweep)]) →
        step s = exec c s) ∧
      (∀ j, (j, c) ∈ [(Job.condition, .conditionRecomputation), (.pins, .pinSetUpdate), (.advert, .advertJob), (.sweep, .sweep)] →
        step s = .next (s.doJob j (some 1))))

/-- R160, R165, R168: no command but RESET_N, PROGRAM WORD and the end of its cycle changes the mode, the reason, the sampled
straps, the treated configuration, the Configuration Memory, its lock state, or the queue. -/
def Obligations.OnlyResetAndProgrammingTouchTheSetting : Prop :=
  ∀ (c : Instr) (s t : State), c ≠ .resetNAssert → (∀ x d, c ≠ .resetNRelease x d) → c ≠ .programCycleEnd →
    exec c s = .next t →
    t.mode = s.mode ∧ t.reason = s.reason ∧ t.straps = s.straps ∧ t.settings = s.settings ∧ t.idField = s.idField ∧
      t.otp = s.otp ∧ t.locked = s.locked ∧ t.freeCount = s.freeCount ∧ t.pending = s.pending

/-! ## Reset and start-up (chapter 10) -/

/-- What reset leaves, where the spec states the value (R1, R21, R36, R57, R83, R119, R128, R149, R159, R160, R181). -/
def Claims.ResetStateHoldsTheStatedValues : Prop :=
  let s := State.reset
  (s.mode = .start ∧ s.ownSeq = 0 ∧ s.txQueue = [] ∧ s.inbound = [] ∧ s.dups = []) ∧
  (∀ l, (s.line l).st = .up ∧ (s.line l).collisions = 0 ∧ (s.line l).window = 16 ∧ (s.line l).access = .rest ∧
    (s.line l).beaconDue = false ∧ (s.line l).beaconSeq = 0 ∧ (s.line l).beaconCurrent = false ∧
    (s.line l).carrierTime = 0 ∧ (s.line l).idleTime = 0) ∧
  (s.time.day = 0 ∧ s.time.ms = 0 ∧ s.time.trim = 0 ∧ s.time.epoch = 0 ∧ s.time.sync = .free ∧ s.time.devs = [] ∧
    s.time.missed = 0 ∧ s.time.outBand = 0 ∧ s.time.stale = 0 ∧ s.time.roundTimer = none ∧ s.time.beaconTimer = none) ∧
  (s.sessions.entries = [] ∧ s.sessions.posting = none ∧ s.sessions.changed = [] ∧ s.sessions.running = none ∧
    s.sessions.waiting = none ∧ s.sessions.refreshReqs = [] ∧ s.sessions.clock = 0) ∧
  (s.routes.entries = [] ∧ s.routes.pinSet = [] ∧ s.routes.promptSet = [] ∧ s.routes.promptAt = none ∧
    s.routes.promptDue = false ∧ s.routes.nextRound = none ∧ s.routes.round = .idle ∧ s.routes.cursor = 1 ∧
    s.routes.nextSweep = none ∧ s.routes.kept = 0 ∧ s.routes.conditionJob = false ∧ s.routes.pinJob = none ∧
    s.routes.advertJob = none ∧ s.routes.sweepJob = false ∧ s.routes.inHand = none ∧ s.routes.clock = 0) ∧
  (s.zones.contributions = [] ∧ s.zones.spillAt = none ∧ s.zones.spillClosed = 0 ∧ s.zones.spillNotice = 0 ∧
    s.zones.ownClosed = 0 ∧ s.zones.ownNotice = 0 ∧ s.zones.ownPending = false ∧ s.zones.resendAt = none ∧
    s.zones.aggClosed = 0 ∧ s.zones.aggNotice = 0 ∧ s.zones.clock = 0) ∧
  (s.composer.st = .idle ∧ s.composer.pass = none ∧ s.composer.cache = none ∧ s.composer.offered = none ∧
    s.composer.pinSet = [] ∧ s.composer.discard = 0 ∧ s.composer.late = false) ∧
  (s.panel.slot = none ∧ s.panel.delivery = none ∧ s.panel.lastAck = 65535 ∧ s.panel.retry = false ∧
    s.panel.interval = none ∧ s.panel.ackTimer = none ∧ s.panel.busyTimer = none ∧ s.panel.faultTimer = none) ∧
  (s.port.response = [0x00, 0x00] ∧ s.port.inHand = none ∧ s.port.notices = 0 ∧ s.port.enables = 0 ∧
    s.port.delivered = false)

/-- RESET_N_ASSERT (R160, R168, R170): every block takes its reset values; the Configuration Memory and the pins stay, and the array is
locked while word 127 holds any other value than 0xFFFF. A program cycle cut short leaves every other word alone, and of its own word
every bit that it did not target. By the model's choice: log entries 3 (the undetermined bits) and 4 (values the manual does not
give). -/
def Obligations.ResetAssertRestoresTheResetValues : Prop :=
  ∀ s : State,
    (s.cycle = none → exec .resetNAssert s =
      .next { State.reset with
        pins := s.pins, otp := s.otp, locked := decide (otpRead s.otp 127 ≠ 0xFFFF#16), freeCount := s.freeCount
        pending := s.pending }) ∧
    (∀ c, s.cycle = some c → otpWf s.otp = true → ∃ cells,
      exec .resetNAssert s =
        .next { State.reset with
          pins := s.pins, otp := cells, locked := decide (otpRead cells 127 ≠ 0xFFFF#16), freeCount := s.freeCount + 1
          pending := s.pending } ∧
      otpWf cells = true ∧
      (∀ a, a ≠ c.addr → otpRead cells a = otpRead s.otp a) ∧
      (∀ i, ¬(c.before.getLsbD i = true ∧ c.pattern.getLsbD i = false) →
        (otpRead cells c.addr).getLsbD i = c.before.getLsbD i) ∧
      (∀ i, i < 16 → c.before.getLsbD i = true → c.pattern.getLsbD i = false →
        (otpRead cells c.addr).getLsbD i = (Config.undeterminedBits s.freeCount).getLsbD i))

/-- RESET_N_RELEASE, record not taken into use (R160, R161, R166, R167, R148, R152): from a station in START as reset leaves its
Composer and Panel Port, with PROG and PORT_EN high it enters PROGRAM, and otherwise with a record that fails a check it enters
UNASSIGNED with the reason of the first check that fails. Either fixed plate is offered: without a panel, or with PANEL_HOLD high,
it waits in the slot; otherwise its delivery starts at once with attempt sequence 0. By the model's choice: log entries 20 (what
the cache holds beside the plate) and 23 (START within the release). -/
def Claims.ReleaseEntersProgramOrUnassigned : Prop :=
  ∀ (s : State) (x : Straps) (detect : Bool), s.mode = .start → s.composer = Composer.reset → s.panel = PanelPort.reset →
    let w := otpRead s.otp
    let fixed (mode : Mode) (reason : Option Reason) (plate : Plate) : State :=
      { s with
        mode := mode, reason := reason, straps := x, locked := decide (w 127 ≠ 0xFFFF#16), idField := (w 0).toNat
        composer := { Composer.reset with st := .fixed, cache := some (fixedCache plate), offered := some plate }
        panel :=
          if detect && !s.pins.panelHold then
            { PanelPort.reset with st := .sending, delivery := some plate, attemptSeq := 0, clocked := some 0 }
          else { PanelPort.reset with st := if detect then .idle else .absent, slot := some plate } }
    (x.prog = true → x.portEn = true →
      exec (.resetNRelease x detect) s = .next (fixed .program none .programming)) ∧
    (∀ r, (x.prog && x.portEn) = false →
      (w 63 ≠ 0 ∧ r = .blank ∨
        w 63 = 0 ∧ (∑ i ∈ Finset.range 63, (w i).toNat) % 65536 ≠ 0 ∧ r = .checksum ∨
        w 63 = 0 ∧ (∑ i ∈ Finset.range 63, (w i).toNat) % 65536 = 0 ∧ ((w 0).toNat = 0 ∨ 4000 < (w 0).toNat) ∧
          r = .badId) →
      exec (.resetNRelease x detect) s = .next (fixed .unassigned (some r) (.unassigned r (w 0).toNat)))

/-- RESET_N_RELEASE with a good record (R161, R165, R119, R149): from a quiet station in START it enters RUN with the treated
configuration. The Route Table holds one pinned entry for the home room, if any, and each directory room; the home room's bests
are 0 m with hop count 0, it alone is in the prompt set, and with it the prompt timer has started (R115); the rest of the Route Engine
is as reset leaves it; the first pass has begun; no notice is raised. By the model's choice: log entry 23 (START within the
release). -/
def Claims.ReleaseWithGoodRecordEntersRun : Prop :=
  ∀ (s : State) (x : Straps) (detect : Bool), s.mode = .start → QuietOutsideRun s →
    (x.prog && x.portEn) = false →
    let w := otpRead s.otp
    w 63 = 0 → (∑ i ∈ Finset.range 63, (w i).toNat) % 65536 = 0 → 1 ≤ (w 0).toNat → (w 0).toNat ≤ 4000 →
    let st := readSettings w
    ∃ entries : List RouteEntry,
      exec (.resetNRelease x detect) s =
        .next { s with
          mode := .run, reason := none, straps := x, locked := decide (w 127 ≠ 0xFFFF#16), idField := (w 0).toNat, settings := st
          routes := { RouteEngine.reset with
            entries := entries, nextRound := some ((w 0).toNat % 30 * 1000000), nextSweep := some 1000000
            promptSet := if st.homeRoom = 0 then [] else [st.homeRoom]
            promptAt := if st.homeRoom = 0 then none else some 1000000 }
          composer := { Composer.reset with
            st := .composing
            pass := some { known := false, moment := { day := 0, ms := 0 }, closed := 0, notice := 0, slots := [],
                           routes := [] } }
          panel := { PanelPort.reset with st := if detect then .idle else .absent } } ∧
      (∀ e ∈ entries, e.pinned = true ∧ e.stored = [] ∧ (e.room = st.homeRoom ∧ st.homeRoom ≠ 0 ∨
        e.room ∈ st.directory)) ∧
      (∀ r, (r = st.homeRoom ∧ r ≠ 0 ∨ r ∈ st.directory) → ∃ e ∈ entries, e.room = r) ∧
      (∀ e ∈ entries, e.room ≠ st.homeRoom → e.any = { cost := .unknown, link := none } ∧
        e.level = { cost := .unknown, link := none } ∧ e.changeCount = 0) ∧
      (st.homeRoom ≠ 0 → ∀ e ∈ entries, e.room = st.homeRoom →
        e.any = { cost := .finite 0 0, link := none } ∧ e.level = { cost := .finite 0 0, link := none } ∧
          e.changeCount = 1)

/-- RESET_N_RELEASE (R160 to R167). -/
def Obligations.ReleaseChoosesTheMode : Prop :=
  Claims.ReleaseEntersProgramOrUnassigned ∧ Claims.ReleaseWithGoodRecordEntersRun

/-- R162 to R164, R186: whatever the array holds, the treated configuration lies in its ranges, and a value in range is used as
read. A link slot is in use exactly where its in-use bit reads 0, its neighbour is 1..4000 and not the own id, and its length is not
0; it gives that neighbour, its zone, its glyph, its length up to 4,000 m, and STAIRS where its bit reads 0. A room filter is in use
where its bit reads 0 and gives its value and mask. The room name's characters stand high byte first, a control code as '?'. -/
def Obligations.TreatedConfigurationLiesInItsRanges : Prop :=
  ∀ w : Nat → Word,
    let st := readSettings w
    let used (i : Nat) : Prop := i < 6 ∧ (w (20 + 3 * i)).getLsbD 0 = false ∧ 1 ≤ (w (18 + 3 * i)).toNat ∧
      (w (18 + 3 * i)).toNat ≤ 4000 ∧ w (18 + 3 * i) ≠ w 0 ∧ w (19 + 3 * i) ≠ 0
    st.stationId = (w 0).toNat ∧
    (st.homeRoom = if 1023 < (w 1).toNat then 0 else (w 1).toNat) ∧
    (st.lookAhead = if 120 < (w 3).toNat then 120 else (w 3).toNat) ∧
    (st.panelInterval = if (w 4).toNat = 0 then 1 else if 60 < (w 4).toNat then 60 else (w 4).toNat) ∧
    st.zone = (w 2).toNat % 32 ∧ (st.policy = .limit ↔ (w 2).getLsbD 8 = true) ∧
    st.roomName.length = min ((w 5).toNat % 256) 24 ∧ (∀ c ∈ st.roomName, 0x20 ≤ c.toNat) ∧
    (∀ i, i < st.roomName.length →
      let c : Byte := (w (6 + i / 2)).extractLsb' (if i % 2 = 0 then 8 else 0) 8
      st.roomName[i]? = some (if c.toNat < 0x20 then 0x3F else c)) ∧
    (st.links.map (·.index)).Pairwise (· < ·) ∧ (∀ i, (∃ k ∈ st.links, k.index = i) ↔ used i) ∧
    (∀ k ∈ st.links,
      k.neighbour = (w (18 + 3 * k.index)).toNat ∧ k.length = min (w (19 + 3 * k.index)).toNat 4000 ∧
      (k.stairs = true ↔ (w (20 + 3 * k.index)).getLsbD 1 = false) ∧
      k.glyph = (w (20 + 3 * k.index)).toNat / 4 % 8 ∧ k.zone = (w (20 + 3 * k.index)).toNat / 256 % 32) ∧
    st.directory.Nodup ∧ (∀ r, r ∈ st.directory ↔ (1 ≤ r ∧ r ≤ 1023 ∧ ∃ i, i < 16 ∧ (w (36 + i)).toNat = r)) ∧
    st.filters = ([0, 1, 2, 3].filter fun i => !(w (52 + 2 * i)).getLsbD 15).map fun i =>
      { value := (w (52 + 2 * i)).toNat % 1024, mask := (w (53 + 2 * i)).toNat % 1024 }

/-! ## The Configuration Memory (chapter 10) -/

/-- PROGRAM_WORD in PROGRAM with nothing in hand (R169, R177): the first case that applies decides; a cycle starts only in the
last, and the request goes into hand. -/
def Claims.ProgramWordIsJudgedInOrder : Prop :=
  ∀ (s : State) (a p1 p0 : Byte) (extra : List Byte) (supply : Bool), PortReady .program s →
    let t := s.supplyLevel supply
    exec (.programWord (a :: p1 :: p0 :: extra) supply) s = .next (
      if s.cycle.isSome then t.responds [0x05, 0x0C]
      else if 127 < a.toNat then t.responds [0x04, 0x0C]
      else if s.locked then t.responds [0x09, 0x0C]
      else if supply = false then t.responds [0x07, 0x0C]
      else
        { t with
          cycle := some { addr := a.toNat, pattern := p1 ++ p0, before := otpRead s.otp a.toNat, lost := false,
                          elapsed := 0 }
          port := { s.port with response := [0x05, 0x0C], inHand := some .programWord } })

/-- PROGRAM_CYCLE_END 100 µs after the start (R168 to R170): with the supply kept the word holds w AND v and the result is OK; with
the supply lost its targeted bits end with an undetermined value and the result is SUPPLY_LOST. Every other word stays; a cycle
on word 127 sets the lock state. By the model's choice: log entry 3 (what the undetermined bits are taken from, and their count). -/
def Obligations.ProgramCycleEndWritesTheWord : Prop :=
  ∀ (s : State) (c : ProgramCycle), s.cycle = some c → 100 ≤ c.elapsed → otpWf s.otp = true →
    ∃ cells, otpWf cells = true ∧ (∀ a, a ≠ c.addr → otpRead cells a = otpRead s.otp a) ∧
      (c.lost = false → otpRead cells c.addr = c.before &&& c.pattern) ∧
      (c.lost = true → ∀ i, i < 16 → (otpRead cells c.addr).getLsbD i =
        (if c.before.getLsbD i = true ∧ c.pattern.getLsbD i = false then (Config.undeterminedBits s.freeCount).getLsbD i
          else c.before.getLsbD i)) ∧
      exec .programCycleEnd s = .next { s with
        otp := cells, cycle := none
        locked := if c.addr = 127 then decide (otpRead cells 127 ≠ 0xFFFF#16) else s.locked
        freeCount := if c.lost then s.freeCount + 1 else s.freeCount
        port := { s.port with response := if c.lost then [0x0A, 0x0C] else [0x00, 0x0C], inHand := none } }

/-- PGM_SUPPLY_FALL (R170) is recorded by a cycle under way, and VERIFY_WORD in PROGRAM with nothing in hand (R171) is judged in
order: BUSY, MALFORMED, SUPPLY_PRESENT, or OK with the address and the word. -/
def Claims.SupplyFallAndVerifyWord : Prop :=
  (∀ s : State, exec .pgmSupplyFall s = .next { s with
    pins := { s.pins with pgmSupply := false }
    cycle := s.cycle.map fun c => { c with lost := true } }) ∧
  (∀ (s : State) (a : Byte) (extra : List Byte) (supply : Bool), PortReady .program s →
    let t := s.supplyLevel supply
    exec (.verifyWord (a :: extra) supply) s = .next (
      if s.cycle.isSome then t.responds [0x05, 0x0D]
      else if 127 < a.toNat then t.responds [0x04, 0x0D]
      else if supply then t.responds [0x08, 0x0D]
      else t.responds [0x00, 0x0D, a, (otpRead s.otp a.toNat).extractLsb' 8 8, (otpRead s.otp a.toNat).extractLsb' 0 8]))

/-- PROGRAM_WORD, PGM_SUPPLY_FALL and VERIFY_WORD (R169 to R171). By the model's choice: log entry 16 (the level a request
carries). -/
def Obligations.ProgrammingRequestsAreJudged : Prop :=
  Claims.ProgramWordIsJudgedInOrder ∧ Claims.SupplyFallAndVerifyWord

/-- R168 to R170: what the Configuration Memory promises holds after every step if it holds before. -/
def Claims.MemoryInvariantIsKept : Prop :=
  ∀ s t : State, MemoryOk s → step s = .next t → MemoryOk t

/-- R168: over every step from a sound memory, a word changes only by bits going from 1 to 0, and no word changes once the array is
locked. -/
def Claims.ConfigurationWordsOnlyLoseOnes : Prop :=
  ∀ s t : State, MemoryOk s → step s = .next t →
    (∀ a i, (otpRead t.otp a).getLsbD i = true → (otpRead s.otp a).getLsbD i = true) ∧
    (otpRead s.otp 127 ≠ 0xFFFF#16 → t.otp = s.otp)

/-- R168: the Configuration Memory over every step: sound, its words only losing ones, and fixed once locked. -/
def Obligations.ConfigurationMemoryStaysSound : Prop :=
  Claims.MemoryInvariantIsKept ∧ Claims.ConfigurationWordsOnlyLoseOnes

/-- What the claims ask of a state holds right after reset. -/
def Claims.ResetMeetsEveryInvariant : Prop :=
  MemoryOk State.reset ∧ QueueOk State.reset ∧ ReceptionOk State.reset ∧ TableOk State.reset.sessions ∧
    RoutesOk State.reset ∧ ListenOnlySilent State.reset ∧ ClockOk State.reset.time ∧ ZonesOk State.reset.zones ∧
    ComposerOk State.reset ∧ PortOk State.reset ∧ PanelOk State.reset ∧ LevelBelowAny State.reset

/-- What reset leaves. By the model's choice: log entry 4 (values the manual does not give). -/
def Obligations.ResetStateIsAsStatedAndSound : Prop :=
  Claims.ResetStateHoldsTheStatedValues ∧ Claims.ResetMeetsEveryInvariant

/-! ## Hall line access (chapter 1) -/

/-- LINE_IDLE_GAP (R3, R4), 12 bit-times of idle seen on a line the station does not drive: with no work the access cycle ends; a
draw from 0..W−1 other than 0 starts the count, and a suspended count resumes where it stopped; a count of 0 leads straight to
what BACKOFF_EXPIRY does; a count that is running goes on. The draw comes from outside (log entry 7). By the model's choice: log entries 14 (how carrier is known),
15 (a suspended count of 0 is a frame chosen on a busy line) and 17 (an idle gap ends a frame being assembled). -/
def Claims.IdleGapStartsOrResumesTheCount : Prop :=
  ∀ (l : LineId) (draw : Nat) (s : State),
    let x := s.line l
    let seen : Line := { x with rx := none, pastFrame := none }
    s.running = true → x.driverEnable = false → x.carrier = false → 12 * s.bitTime ≤ x.idleTime →
    (s.hasWork l = false → exec (.lineIdleGap l draw) s = .next (s.setLine l { seen with access := .rest })) ∧
    (s.hasWork l = true → x.access = .rest → draw % x.window ≠ 0 →
      exec (.lineIdleGap l draw) s = .next (s.setLine l { seen with access := .counting (draw % x.window) 0 })) ∧
    (∀ k, s.hasWork l = true → x.access = .suspended k → k ≠ 0 →
      exec (.lineIdleGap l draw) s = .next (s.setLine l { seen with access := .counting k 0 })) ∧
    (∀ k e, s.hasWork l = true → x.access = .counting k e → exec (.lineIdleGap l draw) s = .next (s.setLine l seen)) ∧
    (s.hasWork l = true → (x.access = .rest ∧ draw % x.window = 0 ∨ x.access = .suspended 0) →
      exec (.lineIdleGap l draw) s =
        exec (.backoffExpiry l) (s.setLine l { seen with access := .counting 0 0 }))

/-- LINE_IDLE_GAP on a line that has not been measured idle for 12 bit-times (R3, R4, R7). A line whose carrier is recorded, as LINE_BUSY
and COLLISION leave it, is measured idle from now on; what is left of the 12 bit-times passes, and then the gap is as on a line
measured idle so long: a new access cycle after a collision draws, and a suspended count resumes. By the model's choice: log entries 5
(the remaining time passes), 7 (the draw), 14 (how carrier is known) and 17 (a frame being assembled). -/
def Claims.IdleGapMeasuresIdleFromTheFallOfCarrier : Prop :=
  ∀ (l : LineId) (draw : Nat) (s : State),
    let x := s.line l
    let seen : Line := { x with
      carrier := false, carrierTime := if x.carrier then 0 else x.carrierTime, pastFrame := none
      idleTime := if x.carrier then 0 else x.idleTime, rx := none }
    let left := 12 * s.bitTime - seen.idleTime
    let t := (s.setLine l seen).elapse left
    s.running = true → x.driverEnable = false →
    exec (.lineIdleGap l draw) s = exec (.lineIdleGap l draw) t ∧
    (12 * t.bitTime ≤ (t.line l).idleTime ∧ t.running = true ∧ t.hasWork l = s.hasWork l ∧
      t.line l = { seen with
        idleTime := seen.idleTime + left
        access := match x.access with | .counting k e => .counting k (e + left) | other => other }) ∧
    (s.hasWork l = false → exec (.lineIdleGap l draw) s = .next (t.setLine l { t.line l with access := .rest })) ∧
    (s.hasWork l = true →
      (x.access = .rest → draw % x.window ≠ 0 → exec (.lineIdleGap l draw) s =
        .next (t.setLine l { t.line l with access := .counting (draw % x.window) 0 })) ∧
      (∀ k, x.access = .suspended k → k ≠ 0 → exec (.lineIdleGap l draw) s =
        .next (t.setLine l { t.line l with access := .counting k 0 })) ∧
      (∀ k e, x.access = .counting k e → exec (.lineIdleGap l draw) s = .next t) ∧
      ((x.access = .rest ∧ draw % x.window = 0 ∨ x.access = .suspended 0) → exec (.lineIdleGap l draw) s =
        exec (.backoffExpiry l) (t.setLine l { t.line l with access := .counting 0 0 })))

/-- LINE_BUSY on a line the station does not drive (R4, R13): carrier is measured from 0. A count is suspended with its remaining
slots, the slot under way not counted; one that has just reached 0 is BACKOFF_EXPIRY on a busy line; a line that is not counting
stays as it is. By the model's choice: log entries 14 (how carrier is known) and 15 (a count that reaches 0 as carrier appears). -/
def Claims.BusyLineSuspendsTheCount : Prop :=
  ∀ (l : LineId) (s : State), s.running = true →
    let x := s.line l
    let busy : Line := { x with carrier := true, carrierTime := 0, pastFrame := none, idleTime := 0 }
    (∀ k e, x.access = .counting k e → e / s.slotTime < k →
      exec (.lineBusy l) s = .next (s.setLine l { busy with access := .suspended (k - e / s.slotTime) })) ∧
    (∀ k e, x.access = .counting k e → k ≤ e / s.slotTime → s.hasWork l = true →
      exec (.lineBusy l) s = exec (.backoffExpiry l) (s.setLine l busy)) ∧
    ((x.access = .rest ∨ ∃ k, x.access = .suspended k) → exec (.lineBusy l) s = .next (s.setLine l busy))

/-- LINE_IDLE_GAP and LINE_BUSY (R3, R4, R7). -/
def Obligations.BackoffIsCountedAndSuspended : Prop :=
  Claims.IdleGapStartsOrResumesTheCount ∧ Claims.IdleGapMeasuresIdleFromTheFallOfCarrier ∧ Claims.BusyLineSuspendsTheCount

/-- BACKOFF_EXPIRY on an idle line (R2, R5 to R7, R10, R16, R42): the due beacon, stamped now, or else the oldest frame PENDING on the
line becomes current with collision count 0 and W 16, is started, and is sent; a current frame is sent again, a beacon stamped anew
under the same sequence number. By the model's choice: log entries 14 (how carrier is known), 27 (the state code of a beacon) and 42
(the unnamed record flag bits of a SESSION frame are 0). -/
def Claims.BackoffExpirySendsOnAnIdleLine : Prop :=
  ∀ (l : LineId) (s : State) (k e : Nat),
    let x := s.line l
    let driven (bytes : List Byte) (y : Line) : Line :=
      { y with access := .sending bytes 0, carrier := true, carrierTime := 0, pastFrame := none, idleTime := 0, rx := none }
    let beacon : List Byte := frameBytes 1 0x00 s.settings.stationId x.beaconSeq
      ([byte s.time.epoch, byte s.time.day] ++ be32 s.time.ms ++ [if s.time.sync = .coasting then 0x02 else 0x01])
    s.running = true → x.monitored = true → x.access = .counting k e → k * s.slotTime ≤ e → x.carrier = false →
    (x.beaconCurrent = true → (∀ f ∈ s.txQueue, f.current l = false) →
      exec (.backoffExpiry l) s = .next (s.setLine l (driven beacon x))) ∧
    (x.beaconCurrent = false → x.beaconDue = true → (∀ f ∈ s.txQueue, f.current l = false) →
      exec (.backoffExpiry l) s = .next (s.setLine l (driven beacon
        { x with beaconCurrent := true, collisions := 0, window := 16 }))) ∧
    (∀ older f newer, x.beaconCurrent = false → x.beaconDue = false → (∀ g ∈ s.txQueue, g.current l = false) →
      s.txQueue = older ++ f :: newer → (∀ g ∈ older, g.mark l ≠ .pending) → f.mark l = .pending →
      exec (.backoffExpiry l) s = .next ((s.withQueue
          (older ++ { f.setMark l .pending true with started := true } :: newer)).setLine l (driven
        (frameBytes f.body.kindCode (frameFlags f.refresh f.prompt) s.settings.stationId f.seq (encodeBody f.body))
        { x with collisions := 0, window := 16 }))) ∧
    (∀ older f newer, x.beaconCurrent = false → s.txQueue = older ++ f :: newer →
      (∀ g ∈ older ++ newer, g.current l = false) → f.current l = true → f.mark l = .pending →
      exec (.backoffExpiry l) s = .next ((s.withQueue (older ++ { f with started := true } :: newer)).setLine l (driven
        (frameBytes f.body.kindCode (frameFlags f.refresh f.prompt) s.settings.stationId f.seq (encodeBody f.body)) x)))

/-- BACKOFF_EXPIRY with carrier on the line, or with no work (R3 to R6): with work the frame is chosen, if none is current, and waits
with a count of 0 for the next idle gap, not yet started; with none the access cycle ends. By the model's choice: log entries 14 (how
carrier is known) and 15 (the frame is chosen at count 0 on a busy line, and waits so). -/
def Claims.BackoffExpiryWaitsOnABusyLine : Prop :=
  ∀ (l : LineId) (s : State) (k e : Nat),
    let x := s.line l
    let waits (y : Line) : Line := { y with access := .suspended 0 }
    s.running = true → x.access = .counting k e → k * s.slotTime ≤ e →
    (s.hasWork l = false → exec (.backoffExpiry l) s = .next (s.setLine l { x with access := .rest })) ∧
    (x.monitored = true → x.carrier = true →
      (x.beaconCurrent = true → exec (.backoffExpiry l) s = .next (s.setLine l (waits x))) ∧
      (∀ f ∈ s.txQueue, f.current l = true → f.mark l = .pending →
        exec (.backoffExpiry l) s = .next (s.setLine l (waits x))) ∧
      (x.beaconCurrent = false → (∀ f ∈ s.txQueue, f.current l = false) →
        (x.beaconDue = true → exec (.backoffExpiry l) s = .next (s.setLine l (waits
          { x with beaconCurrent := true, collisions := 0, window := 16 }))) ∧
        (∀ older f newer, x.beaconDue = false → s.txQueue = older ++ f :: newer →
          (∀ g ∈ older, g.mark l ≠ .pending) → f.mark l = .pending →
          exec (.backoffExpiry l) s = .next ((s.withQueue (older ++ f.setMark l .pending true :: newer)).setLine l (waits
            { x with collisions := 0, window := 16 })))))

/-- BACKOFF_EXPIRY (R3 to R7, R10). -/
def Obligations.BackoffExpiryBeginsATransmission : Prop :=
  Claims.BackoffExpirySendsOnAnIdleLine ∧ Claims.BackoffExpiryWaitsOnABusyLine

/-- ECHO_FAILURE during a transmission (R10, R11, R18): from UP the line enters CHECK and keeps its frame, collision count and W;
from CHECK it enters DOWN, its PENDING frames are abandoned there, its notice is raised, and with both lines DOWN the queue is
emptied. By the model's choice: log entry 14 (the line is left idle). -/
def Obligations.EchoFailureChecksThenTakesDown : Prop :=
  ∀ (l : LineId) (s : State),
    let x := s.line l
    x.driverEnable = true →
    (x.st = .up → exec (.echoFailure l) s = .next (s.setLine l { x with
      st := .check, access := .rest, carrier := false, carrierTime := 0, pastFrame := none, idleTime := 0 })) ∧
    (x.st = .check → exec (.echoFailure l) s = .next
      (((s.withQueue (if (s.line (otherLine l)).st = .down then []
          else (s.txQueue.map fun f => if f.mark l = .pending then f.setMark l .abandoned false else f).filter
            fun f => decide (f.markA = .pending) || decide (f.markB = .pending))).raise
        (match l with | .a => .lineADown | .b => .lineBDown)).setLine l { x with
          st := .down, access := .rest, collisions := 0, window := 16, beaconDue := false, beaconCurrent := false
          carrier := false, carrierTime := 0, pastFrame := none, idleTime := 0 }))

/-- COLLISION during a transmission (R7, R8): up to the seventh W is doubled up to 256 and a new access cycle begins; at the
eighth the frame is abandoned on this line alone, collision count and W return to 0 and 16, and TX_ABANDONED is raised. By the
model's choice: log entry 14 (the line is left busy). -/
def Claims.CollisionBacksOffThenAbandons : Prop :=
  ∀ (l : LineId) (s : State),
    let x := s.line l
    x.driverEnable = true →
    (x.collisions < 7 → exec (.collision l) s = .next (s.setLine l { x with
      access := .rest, collisions := x.collisions + 1, window := min 256 (2 * x.window) })) ∧
    (7 ≤ x.collisions → x.beaconCurrent = true → exec (.collision l) s = .next ((s.raise .txAbandoned).setLine l { x with
      access := .rest, collisions := 0, window := 16, beaconDue := false, beaconCurrent := false })) ∧
    (7 ≤ x.collisions → x.beaconCurrent = false → exec (.collision l) s = .next
      (((s.withQueue ((s.txQueue.map fun f => if f.current l then f.setMark l .abandoned false else f).filter
          fun f => decide (f.markA = .pending) || decide (f.markB = .pending))).raise .txAbandoned).setLine l { x with
        access := .rest, collisions := 0, window := 16 }))

/-- FRAME_SENT after 16 + 10 bit-times per byte (R9, R11, R183): the frame is SENT on this line or the beacon's due mark is
cleared, the engine is released, the line falls idle, and a line in CHECK returns to UP. By the model's choice: log entry 14 (the
line is left idle, unless a CARRIER_STUCK tells that carrier has not broken). -/
def Claims.FrameSentReleasesTheEngine : Prop :=
  ∀ (l : LineId) (s : State) (bytes : List Byte) (e : Nat),
    let x := s.line l
    x.access = .sending bytes e → (16 + 10 * bytes.length) * s.bitTime ≤ e →
    let rested : Line := { x with
      st := if x.st = .check then .up else x.st
      access := .rest, collisions := 0, window := 16, carrier := false, carrierTime := 0, idleTime := 0
      pastFrame := if x.carrier then some x.carrierTime else none }
    (x.beaconCurrent = true →
      exec (.frameSent l) s = .next (s.setLine l { rested with beaconDue := false, beaconCurrent := false })) ∧
    (x.beaconCurrent = false → exec (.frameSent l) s = .next ((s.withQueue
      ((s.txQueue.map fun f => if f.current l then f.setMark l .sent false else f).filter
        fun f => decide (f.markA = .pending) || decide (f.markB = .pending))).setLine l rested))

/-- COLLISION and FRAME_SENT (R7 to R9). -/
def Obligations.TransmissionEndsInCollisionOrSent : Prop :=
  Claims.CollisionBacksOffThenAbandons ∧ Claims.FrameSentReleasesTheEngine

/-- CARRIER_STUCK at 10,000 bit-times of unbroken carrier (R13) and STUCK_LINE_RECOVERY at 50,000 bit-times of unbroken idle
(R14). A station that drives the line with a frame of at most 248 bytes does not take it to STUCK by that; carrier that has not
broken since the end of a frame is measured on. By the model's choice: log entries 5 (a command that cannot come about), 14 (how
carrier is known) and 17 (a frame being assembled). -/
def Claims.StuckLineIsGivenUpAndRecovers : Prop :=
  ∀ (l : LineId) (s : State),
    let x := s.line l
    s.running = true →
    (∀ bytes e, x.access = .sending bytes e → bytes.length ≤ 248 → x.carrier = true → x.carrierTime ≤ e →
      x.carrierTime < 10000 * s.bitTime → exec (.carrierStuck l) s = .next s) ∧
    (x.monitored = true → x.driverEnable = false → x.carrier = false →
      let from_ (n : Nat) : State :=
        s.setLine l { x with carrier := true, carrierTime := n, pastFrame := none, idleTime := 0 }
      (∀ n, x.pastFrame = some n → n ≤ 10000 * s.bitTime →
        exec (.carrierStuck l) s = exec (.carrierStuck l) (from_ n)) ∧
      ((∀ n, x.pastFrame = some n → 10000 * s.bitTime < n) →
        exec (.carrierStuck l) s = exec (.carrierStuck l) (from_ 0))) ∧
    (x.monitored = true → x.carrier = true → 10000 * s.bitTime ≤ x.carrierTime → exec (.carrierStuck l) s = .next
      (((s.withQueue ((s.txQueue.map fun f => if f.mark l = .pending then f.setMark l .abandoned false else f).filter
          fun f => decide (f.markA = .pending) || decide (f.markB = .pending))).raise
        (match l with | .a => .lineAStuck | .b => .lineBStuck)).setLine l { x with
          st := .stuck, access := .rest, collisions := 0, window := 16, beaconDue := false, beaconCurrent := false
          idleTime := 0 })) ∧
    (x.st = .stuck → x.carrier = false → 50000 * s.bitTime ≤ x.idleTime → exec (.stuckLineRecovery l) s = .next
      (s.setLine l { x with
        st := .up, access := .rest, collisions := 0, window := 16, beaconCurrent := false, carrierTime := 0
        pastFrame := none, rx := none }))

/-- LINE_RESTART in RUN (R20, R35, R43): both lines return to UP with their counts reset, the Transmit Queue, the Inbound Queue,
the duplicate list and the stale-beacon count are emptied, and everything else is kept, the own sequence counter and the notices
among it. By the model's choice: log entry 21 (a frame being assembled and the level stay). -/
def Claims.LineRestartCleansTheLines : Prop :=
  ∀ (s : State) (body : List Byte), PortReady .run s →
    let fresh (x : Line) : Line :=
      { st := .up, collisions := 0, window := 16, access := .rest, beaconDue := false, beaconSeq := 0,
        beaconCurrent := false, carrier := x.carrier && !x.driverEnable, carrierTime := 0,
        pastFrame := x.pastFrame.map fun _ => 0, idleTime := 0, rx := x.rx }
    exec (.lineRestart body) s = .next ({ s with
      lineA := fresh s.lineA, lineB := fresh s.lineB, txQueue := [], inbound := [], dups := []
      time := { s.time with stale := 0 } }.responds [0x00, 0x0B])

/-- CARRIER_STUCK, STUCK_LINE_RECOVERY and LINE_RESTART (R13, R14, R20). -/
def Obligations.StuckLinesAndLineRestart : Prop :=
  Claims.StuckLineIsGivenUpAndRecovers ∧ Claims.LineRestartCleansTheLines

/-- R16, R17, R19: a producer's offer is decided in order. A frame taken has the own counter's value as its number, PENDING marks
for lines in UP or CHECK and ABANDONED ones for the others; an unstarted CONDITION frame in the queue is replaced in its place. -/
def Obligations.OfferIsDecidedInOrder : Prop :=
  ∀ (s : State) (b : Body) (refresh prompt : Bool),
    let fresh (x : Line) : Mark := if x.st = .up ∨ x.st = .check then .pending else .abandoned
    let new : TxFrame :=
      { seq := s.ownSeq, refresh := refresh, prompt := prompt, body := b, started := false, markA := fresh s.lineA,
        markB := fresh s.lineB, curA := false, curB := false }
    let old (f : TxFrame) : Prop := (∃ c n, f.body = .condition c n) ∧ f.started = false
    let kept (q : List TxFrame) := q.filter fun f => decide (f.markA = .pending) || decide (f.markB = .pending)
    (s.straps.listenOnly = true ∨ s.mode ≠ .run ∨ (s.lineA.st = .down ∧ s.lineB.st = .down) →
      s.takes b = false ∧ s.offer b refresh prompt = s) ∧
    (s.straps.listenOnly = false → s.mode = .run → ¬(s.lineA.st = .down ∧ s.lineB.st = .down) →
      (∀ older f newer, (∃ c n, b = .condition c n) → s.txQueue = older ++ f :: newer → old f →
        (∀ g ∈ older ++ newer, ¬old g) →
        s.takes b = true ∧ s.offer b refresh prompt = { s with
          txQueue := kept (older ++ { new with curA := f.curA, curB := f.curB } :: newer)
          ownSeq := (s.ownSeq + 1) % 256 }) ∧
      ((∀ f ∈ s.txQueue, (∃ c n, b = .condition c n) → ¬old f) → 16 ≤ s.txQueue.length →
        s.takes b = false ∧ s.offer b refresh prompt = s) ∧
      ((∀ f ∈ s.txQueue, (∃ c n, b = .condition c n) → ¬old f) → s.txQueue.length < 16 →
        s.takes b = true ∧ s.offer b refresh prompt = { s with
          txQueue := kept (s.txQueue ++ [new]), ownSeq := (s.ownSeq + 1) % 256 }))

/-- R15, R17: over every step the Transmit Queue holds at most 16 frames, each PENDING on a line, and at most one CONDITION frame
that has not been started. -/
def Claims.TransmitQueueInvariantIsKept : Prop :=
  ∀ s t : State, QueueOk s → step s = .next t → QueueOk t

/-- R19, R128, R166, R167: over every step a station outside RUN keeps its lines, stores, clock, tables and lists at their reset
values, and one with LISTEN_ONLY set takes no sequence number, queues nothing and drives neither line. -/
def Obligations.ListenOnlyStationStaysSilent : Prop :=
  (∀ s t : State, QuietOutsideRun s → step s = .next t → QuietOutsideRun t) ∧
  (∀ s t : State, ListenOnlySilent s → step s = .next t → ListenOnlySilent t)

/-! ## Reception (chapter 2) -/

/-- FRAME_END of a frame that goes no further (R23 to R30): the frame leaves the receiver; a failed check, a kind outside 1..4 or
a duplicate leaves nothing behind, the own id raises ID_CLASH, and a frame not accepted leaves its pair in the duplicate list. By
the model's choice: log entries 14 (the line is left idle; after a whole frame its carrier may yet prove unbroken) and 17 (frame
assembly). -/
def Claims.FrameEndDiscardsInOrder : Prop :=
  ∀ (l : LineId) (bytes : List Byte) (s : State) (arrival : Stamp), (s.line l).rx = some arrival →
    let t := s.setLine l { s.line l with
      rx := none, carrier := false, carrierTime := 0, idleTime := 0
      pastFrame := if 8 + (bytes.getD 5 0).toNat ≤ bytes.length ∧ (s.line l).carrier = true then some (s.line l).carrierTime else none }
    (parseFrame bytes = none → exec (.frameEnd l bytes) s = .next t) ∧
    (∀ f, parseFrame bytes = some f → (f.kind = 0 ∨ 4 < f.kind) → exec (.frameEnd l bytes) s = .next t) ∧
    (∀ f, parseFrame bytes = some f → 1 ≤ f.kind → f.kind ≤ 4 → f.source = s.settings.stationId →
      exec (.frameEnd l bytes) s = .next (t.raise .idClash)) ∧
    (∀ f d, parseFrame bytes = some f → 1 ≤ f.kind → f.kind ≤ 4 → f.source ≠ s.settings.stationId → d ∈ s.dups →
      d.source = f.source → d.seq = f.seq → d.age < 2000000 → exec (.frameEnd l bytes) s = .next t) ∧
    (∀ f, parseFrame bytes = some f → 1 ≤ f.kind → f.kind ≤ 4 → f.source ≠ s.settings.stationId →
      (∀ d ∈ s.dups, ¬(d.source = f.source ∧ d.seq = f.seq ∧ d.age < 2000000)) → sortBody s.settings f = none →
      exec (.frameEnd l bytes) s = .next { t with
        dups := s.dups.drop (if 64 ≤ s.dups.length then 1 else 0) ++ [DupEntry.mk f.source f.seq 0] })

/-- FRAME_END of a frame that reaches the offer (R26, R32, R33): it joins the Inbound Queue, a BEACON with its arrival timestamp,
unless 24 frames are queued (INBOUND_OVERRUN), or 18 are and it is a SESSION with REFRESH set or an ADVERT with PROMPT clear
(INBOUND_PRESSURE). By the model's choice: log entries 14 (the line is left idle; its carrier may yet prove unbroken) and 17 (frame
assembly). -/
def Obligations.FrameEndOffersToTheInboundQueue : Prop :=
  ∀ (l : LineId) (bytes : List Byte) (s : State) (arrival : Stamp) (f : RawFrame) (b : Body),
    (s.line l).rx = some arrival → parseFrame bytes = some f → 1 ≤ f.kind → f.kind ≤ 4 →
    f.source ≠ s.settings.stationId → (∀ d ∈ s.dups, ¬(d.source = f.source ∧ d.seq = f.seq ∧ d.age < 2000000)) →
    sortBody s.settings f = some b →
    let t := { s.setLine l { s.line l with
        rx := none, carrier := false, carrierTime := 0, idleTime := 0
        pastFrame := if (s.line l).carrier = true then some (s.line l).carrierTime else none } with
      dups := s.dups.drop (if 64 ≤ s.dups.length then 1 else 0) ++ [DupEntry.mk f.source f.seq 0] }
    let q : InFrame :=
      { source := f.source, seq := f.seq
        refresh := (match b with | .session _ => f.flags.getLsbD 0 | _ => false)
        prompt := (match b with | .advert _ => f.flags.getLsbD 1 | _ => false)
        body := b, arrival := (match b with | .beacon _ _ _ _ => some arrival | _ => none) }
    let gives := (match b with | .session _ => q.refresh | .advert _ => !q.prompt | _ => false)
    exec (.frameEnd l bytes) s = .next (
      if 24 ≤ s.inbound.length then t.raise .inboundOverrun
      else if 18 ≤ s.inbound.length ∧ gives = true then t.raise .inboundPressure
      else { t with inbound := s.inbound ++ [q] })

/-- R28 to R31: which frames are accepted, and which bodies pass the check. BEACON and CONDITION frames are accepted from every source,
ADVERT frames from a neighbour alone, a SESSION frame that is PLENARY or has a room of the station. A record with a fault is
discarded; a good one is normalised: its rooms once each, its control codes as '?', a WITHDRAWN one reduced. -/
def Claims.FramesAreAcceptedAndChecked : Prop :=
  ∀ (st : Settings) (f : RawFrame), (∀ g ∈ st.filters, g.value < 1024 ∧ g.mask < 1024) →
    let wanted (m : Nat) : Prop := (st.homeRoom ≠ 0 ∧ m = st.homeRoom) ∨ m ∈ st.directory ∨
      ∃ g ∈ st.filters, ∀ i, i < 10 → g.mask.testBit i = true → m.testBit i = g.value.testBit i
    (f.kind = 1 → sortBody st f = parseBeacon f.body ∧ (f.body.length ≠ 7 → sortBody st f = none) ∧
      ∀ e d m3 m2 m1 m0 x : Byte, f.body = [e, d, m3, m2, m1, m0, x] →
        let ms := ((m3.toNat * 256 + m2.toNat) * 256 + m1.toNat) * 256 + m0.toNat
        (86399999 < ms ∨ (x ≠ 1 ∧ x ≠ 2) → sortBody st f = none) ∧
        (ms ≤ 86399999 → x = 1 ∨ x = 2 → sortBody st f = some (.beacon e.toNat d.toNat ms (decide (x = 2))))) ∧
    (f.kind = 4 → (f.body.length ≠ 8 → sortBody st f = none) ∧
      ∀ c3 c2 c1 c0 n3 n2 n1 n0 : Byte, f.body = [c3, c2, c1, c0, n3, n2, n1, n0] →
        sortBody st f = some (.condition (c3 ++ c2 ++ c1 ++ c0) (n3 ++ n2 ++ n1 ++ n0))) ∧
    (f.kind = 3 → ((∀ k ∈ st.links, k.neighbour ≠ f.source) ∨ f.body.length % 12 ≠ 0 → sortBody st f = none) ∧
      ((∃ k ∈ st.links, k.neighbour = f.source) → f.body.length % 12 = 0 →
        let at_ (i : Nat) : Nat := (f.body.getD i 0).toNat
        let cost (i : Nat) : Cost :=
          let code := at_ i * 256 + at_ (i + 1)
          if code ≤ 32000 ∧ at_ (i + 2) ≤ 31 then .finite code (at_ (i + 2))
          else if code = 65533 ∧ at_ (i + 2) ≤ 31 then .closed (at_ (i + 2))
          else if code = 65534 then .unreachable else .unknown
        let entry (i : Nat) : AdvertEntry :=
          { room := at_ i * 256 + at_ (i + 1), any := { cost := cost (i + 2), via := at_ (i + 5) * 256 + at_ (i + 6) },
            level := { cost := cost (i + 7), via := at_ (i + 10) * 256 + at_ (i + 11) } }
        sortBody st f = some (.advert (((List.range (f.body.length / 12)).map fun j => entry (12 * j)).filter fun e =>
          decide (1 ≤ e.room ∧ e.room ≤ 1023))))) ∧
    (f.kind = 2 → (parseRecord f.body = none → sortBody st f = none) ∧ ∀ r, parseRecord f.body = some r →
      let fault : Prop := r.publisher = 0 ∨ 4000 < r.publisher ∨ r.number = 0 ∨ r.version = 0 ∨ 4 < r.status ∨ r.rooms = [] ∨
        4 < r.rooms.length ∨ (∃ m ∈ r.rooms, m = 0 ∨ 1023 < m) ∨
        (r.status ≠ 4 ∧ (r.endMin ≤ r.startMin ∨ 1440 < r.endMin ∨ 48 < r.title.length ∨
          (∃ x, r.track = some x ∧ 16 < x.length) ∨ (∃ x, r.speaker = some x ∧ 32 < x.length) ∨
          ¬(r.status = 2 ↔ r.movedTo.isSome = true) ∨ ∃ m, r.movedTo = some m ∧ (m = 0 ∨ 1023 < m)))
      let clean (x : List Byte) : List Byte := x.map fun c => if c.toNat < 0x20 then 0x3F else c
      (r.plenary = false → (∀ m ∈ r.rooms, ¬wanted m) → sortBody st f = none) ∧ (fault → sortBody st f = none) ∧
      ((r.plenary = true ∨ ∃ m ∈ r.rooms, wanted m) → ¬fault → ∃ n : SessionRecord, sortBody st f = some (.session n) ∧
        n.publisher = r.publisher ∧ n.number = r.number ∧ n.version = r.version ∧ n.plenary = r.plenary ∧
        n.status.code = r.status ∧ n.rooms = r.rooms.eraseDups ∧
        (r.status = 4 → n.movedTo = none ∧ n.title = [] ∧ n.track = none ∧ n.speaker = none) ∧
        (r.status ≠ 4 → n.day = r.day ∧ n.startMin = r.startMin ∧ n.endMin = r.endMin ∧ n.movedTo = r.movedTo ∧
          n.title = clean r.title ∧ n.track = r.track.map clean ∧ n.speaker = r.speaker.map clean)))

/-- START_DELIMITER on a line that the station does not drive takes the arrival timestamp, and on a line seen idle the line goes busy
with it (R22, R32). DUPLICATE_ENTRY_EXPIRY lets the oldest pair reach 2 s and drops every pair of that age (R27). By the model's
choice: log entries 5 (the remaining time passes) and 17 (frame assembly). -/
def Claims.DelimiterStampsAndDuplicatesExpire : Prop :=
  (∀ (l : LineId) (s : State), s.running = true → (s.line l).driverEnable = false → (s.line l).carrier = true →
    exec (.startDelimiter l) s =
      .next (s.setLine l { s.line l with rx := some { day := s.time.day, ms := s.time.ms } })) ∧
  (∀ (l : LineId) (s : State), s.running = true → (s.line l).driverEnable = false → (s.line l).carrier = false →
    ∃ t, exec (.lineBusy l) s = .next t ∧ exec (.startDelimiter l) s =
      .next (t.setLine l { t.line l with rx := some { day := s.time.day, ms := s.time.ms } })) ∧
  (∀ (s : State) (d : DupEntry) (rest : List DupEntry), s.dups = d :: rest →
    (2000000 ≤ d.age → exec .duplicateEntryExpiry s =
      .next { s with dups := s.dups.filter fun c => decide (c.age < 2000000) }) ∧
    ∃ t, exec .duplicateEntryExpiry s = .next t ∧
      t.dups = (s.dups.map fun c => { c with age := c.age + (2000000 - d.age) }).filter fun c => decide (c.age < 2000000))

/-- START_DELIMITER, FRAME_END of a discarded frame, acceptance, and DUPLICATE_ENTRY_EXPIRY (R22 to R32). -/
def Obligations.ReceiverFramesAndDiscards : Prop :=
  Claims.FrameEndDiscardsInOrder ∧ Claims.FramesAreAcceptedAndChecked ∧ Claims.DelimiterStampsAndDuplicatesExpire

/-- R26, R27, R33, R47: over every step the Inbound Queue holds at most 24 frames, the duplicate list at most 64 pairs, all younger
than 2 s, and the deviation list at most 15 samples. -/
def Claims.ReceptionBoundsAreKept : Prop :=
  ∀ s t : State, ReceptionOk s → step s = .next t → ReceptionOk t

/-- R1, R22, R23, R182: a frame sent is read back whole by a receiver, whatever follows it on the line. -/
def Claims.FrameSentIsReadBack : Prop :=
  ∀ (kind : Nat) (flags : Byte) (source seq : Nat) (body extra : List Byte), kind < 256 → source < 65536 → seq < 256 →
    body.length ≤ 240 →
    parseFrame (frameBytes kind flags source seq body ++ extra) =
      some { kind := kind, flags := flags, source := source, seq := seq, body := body }

/-- R30, R59, R182: a normalised session record is read back from its bytes, WITHDRAWN records in their fixed form. -/
def Obligations.SessionRecordIsReadBack : Prop :=
  ∀ r : SessionRecord,
    (1 ≤ r.publisher ∧ r.publisher ≤ 4000) → (1 ≤ r.number ∧ r.number < 65536) → (1 ≤ r.version ∧ r.version < 65536) →
    (1 ≤ r.rooms.length ∧ r.rooms.length ≤ 4) → r.rooms.Nodup → (∀ m ∈ r.rooms, 1 ≤ m ∧ m ≤ 1023) →
    (r.status = .withdrawn →
      r.day = 0 ∧ r.startMin = 0 ∧ r.endMin = 0 ∧ r.movedTo = none ∧ r.title = [] ∧ r.track = none ∧ r.speaker = none) →
    (r.status ≠ .withdrawn →
      r.day < 256 ∧ r.startMin < r.endMin ∧ r.endMin ≤ 1440 ∧ r.title.length ≤ 48 ∧
      (∀ x, r.track = some x → x.length ≤ 16 ∧ ∀ c ∈ x, 0x20 ≤ c.toNat) ∧
      (∀ x, r.speaker = some x → x.length ≤ 32 ∧ ∀ c ∈ x, 0x20 ≤ c.toNat) ∧ (∀ c ∈ r.title, 0x20 ≤ c.toNat) ∧
      (r.movedTo.isSome = true ↔ r.status = .moved) ∧ (∀ m, r.movedTo = some m → 1 ≤ m ∧ m ≤ 1023)) →
    readRecord (encodeRecord r) = some r

/-- R31, R182: BEACON, CONDITION and ADVERT bodies are read back from their bytes as they were sent. -/
def Claims.OtherBodiesAreReadBack : Prop :=
  (∀ (epoch day ms : Nat) (coasting : Bool), epoch < 256 → day < 256 → ms ≤ 86399999 →
    parseBeacon (encodeBody (.beacon epoch day ms coasting)) = some (.beacon epoch day ms coasting)) ∧
  (∀ closed notice : ZoneVec, parseCondition (encodeBody (.condition closed notice)) = some (.condition closed notice)) ∧
  (∀ es : List AdvertEntry,
    (∀ e ∈ es, 1 ≤ e.room ∧ e.room ≤ 1023 ∧ ∀ v ∈ [e.any, e.level], v.via < 65536 ∧
      (∀ m h, v.cost = .finite m h → m ≤ 32000 ∧ h ≤ 31) ∧ (∀ h, v.cost = .closed h → h ≤ 31)) →
    parseAdvert (encodeBody (.advert es)) = some es)

/-- R182: a frame, and the bodies of BEACON, CONDITION and ADVERT frames, are read back from the bytes they are sent as. -/
def Obligations.FramesSentAreReadBack : Prop :=
  Claims.FrameSentIsReadBack ∧ Claims.OtherBodiesAreReadBack

/-! ## Conference time (chapter 3) -/

/-- BEACON_HANDOVER without effect on the time (R34, R43, R44, R47): a beacon is dropped while the stale-beacon count is above 0, and
an older epoch's is ignored; one of the own epoch enters its deviation: in place of its source's earlier sample, else as a new one
of at most 15. Nothing else of the station changes; the Composer is told nothing. -/
def Claims.BeaconIsDroppedIgnoredOrSampled : Prop :=
  ∀ (s : State) (f : InFrame) (rest : List InFrame) (epoch day ms : Nat) (c : Bool) (at_ : Stamp),
    s.inbound = f :: rest → f.body = .beacon epoch day ms c → f.arrival = some at_ →
    let after (t : TimeUnit) : State := { s with inbound := rest, time := t }
    let d := deviation { day := day, ms := ms } at_
    (0 < s.time.stale →
      exec .beaconHandover s = .next (after { s.time with stale := s.time.stale - 1 })) ∧
    (s.time.stale = 0 → s.time.sync ≠ .free →
      (128 ≤ (epoch + 256 - s.time.epoch % 256) % 256 → exec .beaconHandover s = .next (after s.time)) ∧
      (epoch = s.time.epoch →
        (∀ older x newer, s.time.devs = older ++ (f.source, x) :: newer → (∀ p ∈ older ++ newer, p.1 ≠ f.source) →
          exec .beaconHandover s = .next (after { s.time with devs := older ++ (f.source, d) :: newer })) ∧
        ((∀ p ∈ s.time.devs, p.1 ≠ f.source) → s.time.devs.length < 15 →
          exec .beaconHandover s = .next (after { s.time with devs := s.time.devs ++ [(f.source, d)] })) ∧
        ((∀ p ∈ s.time.devs, p.1 ≠ f.source) → 15 ≤ s.time.devs.length →
          exec .beaconHandover s = .next (after s.time))))

/-- BEACON_HANDOVER with effect on the time (R43 to R45): the first beacon takes FREE to JOINING with the beacon's epoch and first
sample; a newer epoch is adopted: the counter moves by the deviation, the station is LOCKED, the list empty, the round new, and
TIME_STEP is raised. Every beacon still queued is stale. -/
def Claims.BeaconJoinsOrIsAdopted : Prop :=
  ∀ (s : State) (f : InFrame) (rest : List InFrame) (epoch day ms : Nat) (c : Bool) (at_ : Stamp),
    s.inbound = f :: rest → f.body = .beacon epoch day ms c → f.arrival = some at_ → s.time.stale = 0 → ClockOk s.time →
    let d := deviation { day := day, ms := ms } at_
    let waiting := rest.countP fun g => g.body.isBeacon
    let t : State := { s with inbound := rest }
    (s.time.sync = .free → s.time.devs = [] → exec .beaconHandover s = .next (t.timeEvent
      { time := { s.time with
          epoch := epoch, sync := .joining, roundTimer := some 0, devs := [(f.source, d)], stale := waiting }
        step := false, told := true })) ∧
    (s.time.sync ≠ .free → 1 ≤ (epoch + 256 - s.time.epoch % 256) % 256 →
      (epoch + 256 - s.time.epoch % 256) % 256 ≤ 127 →
      exec .beaconHandover s = .next (t.timeEvent
        { time := { s.time.shift d with
            epoch := epoch, sync := .locked, devs := [], missed := 0, outBand := 0, roundTimer := some 0
            beaconTimer := if s.time.sync = .joining then some 0 else s.time.beaconTimer
            stale := if d = 0 then 0 else waiting }
          step := true, told := true }))

/-- BEACON_HANDOVER (R43 to R47). -/
def Obligations.BeaconsAreHandedOver : Prop :=
  Claims.BeaconIsDroppedIgnoredOrSampled ∧ Claims.BeaconJoinsOrIsAdopted

/-- R39: moving the counter by d ms changes its reading by d modulo 256 days, keeps the fraction and leaves the reading in range; 0 ms
changes nothing. -/
def Claims.ShiftMovesTheCounter : Prop :=
  ∀ (t : TimeUnit) (d : Int), t.day < 256 → t.ms < 86400000 →
    (t.shift d).day < 256 ∧ (t.shift d).ms < 86400000 ∧ (t.shift d).frac = t.frac ∧ t.shift 0 = t ∧
    (((t.shift d).day * 86400000 + (t.shift d).ms : Nat) : Int) ≡
      ((t.day * 86400000 + t.ms : Nat) : Int) + d [ZMOD 256 * 86400000]

/-- ROUND_END at 8 s, with midpoint m (R48, R50 to R53): in JOINING the counter steps by m and the station is LOCKED; a round
without samples counts as missed, the third taking LOCKED to COASTING; within 2,000 ms the counter is corrected by at most
250 ms and the trim by at most 40 ppm, to at most 400; beyond, the first two rounds in a row only count and the third steps the
counter. The list is emptied and the timer starts again. By the model's choice: log entry 39 (a beacon that waits at two adjustments is
counted at each). -/
def Obligations.RoundEndJudgesTheMidpoint : Prop :=
  ∀ (s : State) (r : Nat), s.time.roundTimer = some r → 8000000 ≤ r → ClockOk s.time →
    let t := s.time
    let m := trimmedMidpoint (t.devs.map (·.2))
    let waiting := s.inbound.countP fun g => g.body.isBeacon
    let stale (d : Int) : Nat := if d = 0 then t.stale else t.stale + waiting
    let clamp (b x : Int) : Int := if x < -b then -b else if b < x then b else x
    (t.sync = .joining → exec .roundEnd s = .next (s.timeEvent
      { time := { t.shift m with
          sync := .locked, missed := 0, outBand := 0, beaconTimer := some 0, devs := [], roundTimer := some 0
          stale := stale m }
        step := true, told := true })) ∧
    (t.sync ≠ .joining → t.devs = [] → exec .roundEnd s = .next (s.timeEvent
      { time := { t with
          missed := min (t.missed + 1) 3, outBand := 0, devs := [], roundTimer := some 0
          sync := if t.sync = .locked ∧ 2 ≤ t.missed then .coasting else t.sync }
        step := false, told := decide (t.sync = .locked ∧ 2 ≤ t.missed) })) ∧
    (t.sync ≠ .joining → t.devs ≠ [] → -2000 ≤ m → m ≤ 2000 → exec .roundEnd s = .next (s.timeEvent
      { time := { t.shift (clamp 250 m) with
          sync := .locked, missed := 0, outBand := 0, devs := [], roundTimer := some 0, stale := stale (clamp 250 m)
          trim := clamp 400 (t.trim + clamp 40 (Int.tdiv (m * 125) 4)) }
        step := false, told := decide (t.sync ≠ .locked) })) ∧
    (t.sync ≠ .joining → t.devs ≠ [] → (m < -2000 ∨ 2000 < m) → t.outBand < 2 → exec .roundEnd s = .next (s.timeEvent
      { time := { t with missed := 0, outBand := t.outBand + 1, devs := [], roundTimer := some 0 }
        step := false, told := false })) ∧
    (t.sync ≠ .joining → t.devs ≠ [] → (m < -2000 ∨ 2000 < m) → 2 ≤ t.outBand → exec .roundEnd s = .next (s.timeEvent
      { time := { t.shift m with
          sync := .locked, missed := 0, outBand := 0, devs := [], roundTimer := some 0, stale := stale m }
        step := true, told := true }))

/-- R38 to R40: what an event of the Time Unit does beside its time: TIME_STEP for a step; where the current minute changes one minute
event to the Session Table and the Composer, after that of a boundary the counter has crossed before; a reading that has changed is
compared by the Composer with its valid-until time; one report to the Composer, after the rest; nothing else. By the model's choice:
log entry 8 (the minute a minute event was given for is kept, and so a crossing not yet given). -/
def Claims.TimeEventTellsItsListeners : Prop :=
  ∀ (s : State) (t : TimeUnit) (step told : Bool),
    let u := s.timeEvent { time := t, step := step, told := told }
    let moved : Bool := decide (t.day ≠ s.time.day ∨ t.ms ≠ s.time.ms)
    u = { s with time := u.time, sessions := u.sessions, composer := u.composer, port := u.port } ∧
    u.port = (if step then { s.port with notices := s.port.notices ||| 0x0100#16 } else s.port) ∧
    (t.ms / 60000 = s.time.ms / 60000 → u.time = t ∧ u.sessions = s.sessions ∧
      u.composer = s.composer.onTime moved false told { s with time := t }.passNow) ∧
    (t.ms / 60000 ≠ s.time.ms / 60000 →
      let crossed : Bool := decide (s.time.sync ≠ .free ∧ s.time.ms / 60000 ≠ s.time.minuteGiven)
      let sessions := if crossed then s.sessions.minuteEvent s.time.known s.time.day (s.time.ms / 60000) else s.sessions
      let composer := if crossed then
        s.composer.invalidateIf (s.composer.hitByMinute { day := s.time.day, ms := s.time.ms }) s.passNow else s.composer
      u.time = { t with minuteGiven := t.ms / 60000 } ∧
      u.sessions = sessions.minuteEvent t.known t.day (t.ms / 60000) ∧
      u.composer = composer.onTime moved true told { s with time := t }.passNow)

/-- R38 to R40: adjustments of the counter, and who is told. -/
def Obligations.TimeEventsMoveAndTell : Prop :=
  Claims.ShiftMovesTheCounter ∧ Claims.TimeEventTellsItsListeners

/-- R49: the trimmed midpoint of 1 to 15 samples: sorted, the k smallest and k largest removed by count, and the mean of the smallest
and largest remaining, truncated toward zero. -/
def Obligations.TrimmedMidpointFollowsTheRule : Prop :=
  ∀ (ds sorted : List Int), 1 ≤ ds.length → ds.length ≤ 15 → sorted.Perm ds → sorted.Pairwise (· ≤ ·) →
    let n := ds.length
    let k := if n ≤ 2 then 0 else if n ≤ 7 then 1 else 2
    trimmedMidpoint ds = Int.tdiv (sorted.getD k 0 + sorted.getD (n - 1 - k) 0) 2

/-- R46: the deviation, with the day difference brought into −128..127. -/
def Obligations.DeviationFollowsTheRule : Prop :=
  ∀ x y : Stamp, x.day < 256 → y.day < 256 →
    ∃ dd : Int, -128 ≤ dd ∧ dd ≤ 127 ∧ dd ≡ (x.day : Int) - (y.day : Int) [ZMOD 256] ∧
      deviation x y = dd * 86400000 + ((x.ms : Int) - (y.ms : Int))

/-- BEACON_TIMER_EXPIRY at 2 s restarts the timer and gives the beacon-due indication (R41, R2): it marks each line in UP or CHECK
whose beacon is not current, with one new sequence number, and takes none where it marks no line or under LISTEN_ONLY. -/
def Claims.BeaconTimerMarksTheLines : Prop :=
  ∀ (s : State) (r : Nat), s.time.beaconTimer = some r → 2000000 ≤ r →
    let ready (x : Line) : Prop := (x.st = .up ∨ x.st = .check) ∧ x.beaconCurrent = false
    let t : State := { s with time := { s.time with beaconTimer := some 0 } }
    (s.straps.listenOnly = true ∨ s.mode ≠ .run ∨ (¬ready s.lineA ∧ ¬ready s.lineB) →
      exec .beaconTimerExpiry s = .next t) ∧
    (s.straps.listenOnly = false → s.mode = .run → (ready s.lineA ∨ ready s.lineB) → ∃ a b,
      exec .beaconTimerExpiry s = .next { t with lineA := a, lineB := b, ownSeq := (s.ownSeq + 1) % 256 } ∧
      (ready s.lineA → a = { s.lineA with beaconDue := true, beaconSeq := s.ownSeq }) ∧ (¬ready s.lineA → a = s.lineA) ∧
      (ready s.lineB → b = { s.lineB with beaconDue := true, beaconSeq := s.ownSeq }) ∧ (¬ready s.lineB → b = s.lineB))

/-- MINUTE_EVENT (R38): where the minute has already changed the event is given now, and nothing but the Session Table's pass and
the Composer follow; otherwise, out of FREE, the counter first runs on to the next minute boundary. By the model's choice: log
entries 5 (the remaining time passes) and 8 (a crossing not yet given). -/
def Claims.MinuteEventFollowsTheCounter : Prop :=
  ∀ s : State, s.time.sync ≠ .free → ClockOk s.time →
    (s.time.ms / 60000 ≠ s.time.minuteGiven → exec .minuteEvent s = .next { s with
      time := { s.time with minuteGiven := s.time.ms / 60000 }
      sessions := s.sessions.minuteEvent s.time.known s.time.day (s.time.ms / 60000)
      composer := s.composer.invalidateIf (s.composer.hitByMinute { day := s.time.day, ms := s.time.ms }) s.passNow }) ∧
    (s.time.ms / 60000 = s.time.minuteGiven → ∃ t, exec .minuteEvent s = .next t ∧ t.time.ms % 60000 = 0 ∧
      t.time.ms / 60000 = (s.time.ms / 60000 + 1) % 1440 ∧ t.time.minuteGiven = t.time.ms / 60000 ∧
      t.time.day = (if s.time.ms / 60000 = 1439 then (s.time.day + 1) % 256 else s.time.day))

/-- A minute event at the Session Table (R72, R73): disregarded with unknown time; a pass under way goes on and the event's pass waits
behind it, in place of one that waits already; otherwise its pass starts. A pass stands at the entry of the lowest slot not yet passed
that it removes; where there is none it ends, and a waiting pass starts. By the model's choice: log entries 11 (an expiry time reached
counts as passed) and 12 (where a pass stands). -/
def Claims.MinuteEventStartsAPass : Prop :=
  ∀ (tb : SessionTable) (d m : Nat),
    let past (p : HousekeepingPass) (x : SessionEntry) : Prop :=
      p.next ≤ x.slot ∧ if x.record.status = .withdrawn then ∃ t, x.expiry = some t ∧ t ≤ tb.clock
      else (1 ≤ (p.day + 256 - x.record.day % 256) % 256 ∧ (p.day + 256 - x.record.day % 256) % 256 ≤ 127) ∨
        (x.record.day = p.day ∧ x.record.endMin + 30 ≤ p.minute)
    let stands (p : HousekeepingPass) (q : Option HousekeepingPass) : Prop :=
      ((∀ x ∈ tb.entries, ¬past p x) → q = none) ∧
      (∀ e ∈ tb.entries, past p e → (∀ x ∈ tb.entries, past p x → e.slot ≤ x.slot) → q = some { p with next := e.slot })
    let new : HousekeepingPass := { day := d, minute := m, next := 0 }
    tb.minuteEvent false d m = tb ∧
    (∀ p, tb.running = some p → tb.minuteEvent true d m = { tb with waiting := some (d, m) }) ∧
    (tb.running = none → ∃ q, tb.minuteEvent true d m = { tb with running := q, waiting := none } ∧ stands new q) ∧
    (∀ p, tb.running = some p →
      (∀ e ∈ tb.entries, past p e → ∃ q, stands p (some q) ∧ tb.settle = { tb with running := some q }) ∧
      ((∀ x ∈ tb.entries, ¬past p x) →
        (tb.waiting = none → tb.settle = { tb with running := none }) ∧
        (tb.waiting = some (d, m) → ∃ q, tb.settle = { tb with running := q, waiting := none } ∧ stands new q)))

/-- BEACON_TIMER_EXPIRY and MINUTE_EVENT (R38, R41, R72, R73). -/
def Obligations.BeaconTimerAndMinuteEvents : Prop :=
  Claims.BeaconTimerMarksTheLines ∧ Claims.MinuteEventFollowsTheCounter ∧ Claims.MinuteEventStartsAPass

/-- SET_TIME (R54, R175) in RUN: a ms of day above 86,399,999 is MALFORMED and the Time Unit is not touched; otherwise the counter
is set with fraction 0, the epoch goes on by one, the station is LOCKED with a new round, queued beacons are stale, TIME_STEP is
raised and a beacon-due indication follows. By the model's choice: log entries 29 (waiting beacons count as stale where the reading
stays the same), 38 (they are dropped and do not meet the new epoch) and 39 (one that waits at two adjustments is counted at each). -/
def Obligations.SetTimeSetsTheCounter : Prop :=
  ∀ (s : State) (d m3 m2 m1 m0 : Byte) (extra : List Byte), PortReady .run s →
    let ms := ((m3.toNat * 256 + m2.toNat) * 256 + m1.toNat) * 256 + m0.toNat
    (86399999 < ms → exec (.setTime (d :: m3 :: m2 :: m1 :: m0 :: extra)) s = .next (s.responds [0x04, 0x09])) ∧
    (ms ≤ 86399999 → exec (.setTime (d :: m3 :: m2 :: m1 :: m0 :: extra)) s = .next
      (((s.timeEvent
        { time := { s.time with
            day := d.toNat, ms := ms, frac := 0, epoch := (s.time.epoch + 1) % 256, devs := [], missed := 0
            outBand := 0, sync := .locked, stale := s.time.stale + s.inbound.countP (fun g => g.body.isBeacon)
            roundTimer := some 0, beaconTimer := some 0 }
          step := true, told := true }).beaconIndication).responds [0x00, 0x09]))

/-- R37, R51 to R53: over every step the counter, its fraction, the trim and the two counts stay in their ranges. -/
def Claims.ClockStaysInRange : Prop :=
  ∀ s t : State, ClockOk s.time → step s = .next t → ClockOk t.time

/-- R15, R17, R26, R33, R37, R47: the queues, the lists and the clock over every step. -/
def Obligations.StoresAndClockStayInBounds : Prop :=
  Claims.TransmitQueueInvariantIsKept ∧ Claims.ReceptionBoundsAreKept ∧ Claims.ClockStaysInRange

/-! ## Session Table (chapter 4) -/

/-- INBOUND_MERGE of a key not held, with room in the table (R61, R62, R64, R81, R82): the record takes the lowest empty slot with
origin LINE and an arrival time that no entry shares, and its changed mark joins the end of the order; it is refreshed by its home
station alone and a tombstone expires after 10 min. Nothing else of the station changes but the Composer, which is told, and the
frame leaves the Inbound Queue. By the model's choice: log entries 12 (a running housekeeping pass moves on) and 34 (the arrival time
of merges within one µs). -/
def Claims.InboundMergeOfANewKey : Prop :=
  ∀ (s : State) (f : InFrame) (rest : List InFrame) (r : SessionRecord),
    s.inbound = f :: rest → f.body = .session r → TableOk s.sessions → s.sessions.entries.length < 64 →
    (∀ e ∈ s.sessions.entries, (e.record.publisher, e.record.number) ≠ (r.publisher, r.number)) →
    let new (arrival slot : Nat) : SessionEntry :=
      { slot := slot, record := r, arrival := arrival, isLocal := false
        nextRefresh := if s.settings.homeRoom ≠ 0 ∧ s.settings.homeRoom ∈ r.rooms then
          some (arrival + 60000000 + s.settings.stationId % 16 * 250000) else none
        expiry := if r.status = .withdrawn then some (arrival + 600000000) else none }
    ∃ arrival slot, ArrivalOf s.sessions arrival ∧ slot < 64 ∧ (∀ e ∈ s.sessions.entries, e.slot ≠ slot) ∧
      (∀ j, j < slot → ∃ e ∈ s.sessions.entries, e.slot = j) ∧
      exec .inboundMerge s = .next { s with
        inbound := rest
        sessions := { s.sessions with
          entries := s.sessions.entries ++ [new arrival slot]
          changed := s.sessions.changed ++ [slot] }.settle
        composer := s.composer.onSessions s.settings s.passNow
          [{ key := (r.publisher, r.number), before := none, after := some (r.rooms, r.plenary) }] }

/-- R61, R62, R64, R81, R82: the insertion of a key not held into a table with room, from a line or from a post: as the inbound merge's,
but that an entry of origin LOCAL is refreshed whatever its rooms; no notice. By the model's choice: log entry 34 (the arrival time of
merges within one µs). -/
def Claims.NewKeyOfEitherOriginIsInserted : Prop :=
  ∀ (st : Settings) (t : TimeUnit) (tb : SessionTable) (r : SessionRecord) (isLocal : Bool), TableOk tb →
    tb.entries.length < 64 → (∀ e ∈ tb.entries, (e.record.publisher, e.record.number) ≠ (r.publisher, r.number)) →
    ∃ arrival slot, ArrivalOf tb arrival ∧ slot < 64 ∧ (∀ e ∈ tb.entries, e.slot ≠ slot) ∧
      (∀ j, j < slot → ∃ e ∈ tb.entries, e.slot = j) ∧
      tb.merge st t r isLocal =
        { table := { tb with
            entries := tb.entries ++
              [{ slot := slot, record := r, arrival := arrival, isLocal := isLocal
                 nextRefresh := if (st.homeRoom ≠ 0 ∧ st.homeRoom ∈ r.rooms) ∨ isLocal = true then
                   some (arrival + 60000000 + st.stationId % 16 * 250000) else none
                 expiry := if r.status = .withdrawn then some (arrival + 600000000) else none }]
            changed := tb.changed ++ [slot] }
          course := .insert, notices := 0
          reports := [{ key := (r.publisher, r.number), before := none, after := some (r.rooms, r.plenary) }] }

/-- R61 to R64: the insertion of a new key into a table with room. -/
def Obligations.InboundMergeInsertsANewKey : Prop :=
  Claims.InboundMergeOfANewKey ∧ Claims.NewKeyOfEitherOriginIsInserted

/-- INBOUND_MERGE of any SESSION frame at the head (R34, R63, R82): the record is merged with origin LINE, whatever the course; the
frame leaves the Inbound Queue, the Composer is told of the reports in order, the notices are raised, and nothing else of the station
changes. With no SESSION frame at the head nothing happens. By the model's choice: log entries 5 (a command that cannot come about) and
12 (a running housekeeping pass moves on). -/
def Claims.InboundMergeIsAMerge : Prop :=
  ∀ s : State,
    (∀ f rest r, s.inbound = f :: rest → f.body = .session r →
      let o := s.sessions.merge s.settings s.time r false
      exec .inboundMerge s = .next { s with
        inbound := rest
        sessions := o.table.settle
        composer := s.composer.onSessions s.settings s.passNow o.reports
        port := { s.port with notices := s.port.notices ||| o.notices } }) ∧
    ((∀ f rest r, s.inbound = f :: rest → f.body ≠ .session r) → exec .inboundMerge s = .next s)

/-- R62, R63, R65 to R68: a merge of a key that is held. A higher version replaces the entry in its slot; the same version with the same
content puts off the refresh of a refreshable entry; with other content it is dropped and raises VERSION_CONFLICT; a lower version
brings the refresh of a refreshable entry forward to the repair time. An entry is refreshable that is in the home room or of origin LOCAL,
and is no tombstone whose expiry time has passed. By the model's choice: log entries 11 (an expiry time reached
counts as passed) and 34 (the arrival time of merges within one µs). -/
def Claims.MergeFollowsTheVersions : Prop :=
  ∀ (st : Settings) (t : TimeUnit) (tb : SessionTable) (r : SessionRecord) (isLocal : Bool)
    (older : List SessionEntry) (e : SessionEntry) (newer : List SessionEntry) (arrival : Nat),
    TableOk tb → ArrivalOf tb arrival → tb.entries = older ++ e :: newer → e.record.publisher = r.publisher → e.record.number = r.number →
    let at_ (x : SessionEntry) : SessionTable := { tb with entries := older ++ x :: newer }
    let new : SessionEntry :=
      { slot := e.slot, record := r, arrival := arrival, isLocal := isLocal
        nextRefresh := if (st.homeRoom ≠ 0 ∧ st.homeRoom ∈ r.rooms) ∨ isLocal = true then
          some (arrival + 60000000 + st.stationId % 16 * 250000) else none
        expiry := if r.status = .withdrawn then some (arrival + 600000000) else none }
    let own (e : SessionEntry) : Bool :=
      (decide (st.homeRoom ≠ 0 ∧ st.homeRoom ∈ e.record.rooms) || e.isLocal) &&
        !(decide (e.record.status = .withdrawn) && e.expiry.any fun t => decide (t ≤ tb.clock))
    (e.record.version < r.version → tb.merge st t r isLocal =
      { table := { tb with
          entries := older ++ newer ++ [new]
          changed := if e.slot ∈ tb.changed then tb.changed else tb.changed ++ [e.slot] }
        course := .replace, notices := 0
        reports := [{ key := (r.publisher, r.number), before := some (e.record.rooms, e.record.plenary),
                      after := some (r.rooms, r.plenary) }] }) ∧
    (r = e.record → tb.merge st t r isLocal =
      { table := at_ (if own e then
          { e with nextRefresh := some (tb.clock + 60000000 + st.stationId % 16 * 250000) } else e)
        course := .hearing, notices := 0, reports := [] }) ∧
    (r.version = e.record.version → r ≠ e.record → tb.merge st t r isLocal =
      { table := tb, course := .conflict, notices := 0x0400#16, reports := [] }) ∧
    (r.version < e.record.version → tb.merge st t r isLocal =
      { table := at_ (if own e then
          { e with nextRefresh := some (match e.nextRefresh with
              | some n => min n (tb.clock + 1000000 + st.stationId % 4 * 250000)
              | none => tb.clock + 1000000 + st.stationId % 4 * 250000) } else e)
        course := .stale, notices := 0, reports := [] })

/-- R69, R70: into a full table a record displaces the entry that the first step of R69 finds, in its slot, with a report of the
removal before that of the insertion; the changed mark and the refresh request of the entry displaced are gone (R74, R81). Step 1 takes an expired tombstone and step 2 any tombstone, the earliest arrived; step 3, with
known time, the entry that ended furthest back, by day, end minute and earliest arrival; step 4, for a record that is not WITHDRAWN,
of the entries away from home that start later than it the one that starts latest, by day, start minute and latest arrival. Where no
step finds one the record is refused and SESSION_TABLE_FULL is raised. By the model's choice: log entries 10 (the list stands in
order of arrival) and 11 (an expiry time reached counts as passed). -/
def Claims.FullTableEvictsOrRefuses : Prop :=
  ∀ (st : Settings) (t : TimeUnit) (tb : SessionTable) (r : SessionRecord) (isLocal : Bool) (arrival : Nat),
    let ahead (a b : Nat) : Nat := (a + 256 - b % 256) % 256
    let tombstone (e : SessionEntry) : Prop := e.record.status = .withdrawn
    let ended (e : SessionEntry) : Prop := ¬tombstone e ∧ (t.sync = .locked ∨ t.sync = .coasting) ∧
      ((1 ≤ ahead t.day e.record.day ∧ ahead t.day e.record.day ≤ 127) ∨
        (e.record.day = t.day ∧ e.record.endMin * 60000 ≤ t.ms))
    let later (e : SessionEntry) : Prop := ¬tombstone e ∧ r.status ≠ .withdrawn ∧
      ¬(st.homeRoom ≠ 0 ∧ st.homeRoom ∈ e.record.rooms) ∧
      ((1 ≤ ahead e.record.day r.day ∧ ahead e.record.day r.day ≤ 127) ∨
        (e.record.day = r.day ∧ r.startMin < e.record.startMin))
    let furthestBack (e x : SessionEntry) : Prop :=
      ahead t.day x.record.day < ahead t.day e.record.day ∨ (ahead t.day x.record.day = ahead t.day e.record.day ∧
        (e.record.endMin < x.record.endMin ∨ (e.record.endMin = x.record.endMin ∧ e.arrival < x.arrival)))
    let latest (e x : SessionEntry) : Prop :=
      ahead x.record.day r.day < ahead e.record.day r.day ∨ (ahead x.record.day r.day = ahead e.record.day r.day ∧
        (x.record.startMin < e.record.startMin ∨ (x.record.startMin = e.record.startMin ∧ x.arrival < e.arrival)))
    ArrivalOf tb arrival → TableOk tb → tb.entries.length = 64 → (∀ e ∈ tb.entries, e.record.key ≠ r.key) →
    (∀ v, tb.victim st t r = some v → v ∈ tb.entries ∧ tb.merge st t r isLocal =
      { table := { tb with
          entries := (tb.entries.filter fun e => decide (e ≠ v)) ++
            [{ slot := v.slot, record := r, arrival := arrival, isLocal := isLocal
               nextRefresh := if (st.homeRoom ≠ 0 ∧ st.homeRoom ∈ r.rooms) ∨ isLocal = true then
                 some (arrival + 60000000 + st.stationId % 16 * 250000) else none
               expiry := if r.status = .withdrawn then some (arrival + 600000000) else none }]
          changed := (tb.changed.filter fun i => decide (i ≠ v.slot)) ++ [v.slot]
          refreshReqs := tb.refreshReqs.filter fun q => decide (q.2 ≠ v.slot) }
        course := .insert, notices := 0
        reports := [{ key := v.record.key, before := some (v.record.rooms, v.record.plenary), after := none },
          { key := r.key, before := none, after := some (r.rooms, r.plenary) }] }) ∧
    (tb.victim st t r = none → tb.merge st t r isLocal =
      { table := tb, course := .refused, notices := 0x0200#16, reports := [] }) ∧
    (∀ e ∈ tb.entries, tombstone e → e.expired tb.clock = true →
      (∀ x ∈ tb.entries, tombstone x → x.expired tb.clock = true → e.arrival ≤ x.arrival) → tb.victim st t r = some e) ∧
    (∀ e ∈ tb.entries, tombstone e → (∀ x ∈ tb.entries, tombstone x → x.expired tb.clock = false) →
      (∀ x ∈ tb.entries, tombstone x → e.arrival ≤ x.arrival) → tb.victim st t r = some e) ∧
    (∀ e ∈ tb.entries, ended e → (∀ x ∈ tb.entries, ¬tombstone x) →
      (∀ x ∈ tb.entries, ended x → x ≠ e → furthestBack e x) → tb.victim st t r = some e) ∧
    (∀ e ∈ tb.entries, later e → (∀ x ∈ tb.entries, ¬tombstone x ∧ ¬ended x) →
      (∀ x ∈ tb.entries, later x → x ≠ e → latest e x) → tb.victim st t r = some e) ∧
    ((∀ x ∈ tb.entries, ¬tombstone x ∧ ¬ended x ∧ ¬later x) → tb.victim st t r = none)

/-- R63 to R70: any inbound merge, merges of a held key, and into a full table. -/
def Obligations.HeldAndFullMerges : Prop :=
  Claims.InboundMergeIsAMerge ∧ Claims.MergeFollowsTheVersions ∧ Claims.FullTableEvictsOrRefuses

/-- POSTING_BUFFER_MERGE when the arbiter reaches it (R77 to R79): a record with a fault is MALFORMED; otherwise it is merged with
origin LOCAL and answered ACCEPTED, STALE or FULL by the merge's course. An ACCEPTED record is announced with REFRESH clear; where
the announcement is refused, its next refresh is due 1 s later. By the model's choice: log entry 12 (a running housekeeping pass moves
on). -/
def Obligations.PostIsMergedAndAnswered : Prop :=
  ∀ (s : State) (bs : List Byte), s.sessions.posting = some bs →
    (∀ f, s.inbound.head? = some f → f.body.isSession = false) →
    let done (code : Byte) (t : State) : State :=
      { t with sessions := { t.sessions with posting := none }, port := { t.port with response := [code, 0x05], inHand := none } }
    (readRecord bs = none → exec .postingBufferMerge s = .next (done 0x04 s)) ∧
    (∀ r, readRecord bs = some r →
      let o := s.sessions.merge s.settings s.time r true
      let merged : State := { s with
        sessions := o.table.settle
        composer := s.composer.onSessions s.settings s.passNow o.reports
        port := { s.port with notices := s.port.notices ||| o.notices } }
      ((o.course = .hearing ∨ o.course = .conflict ∨ o.course = .stale) →
        exec .postingBufferMerge s = .next (done 0x02 merged)) ∧
      (o.course = .refused → exec .postingBufferMerge s = .next (done 0x03 merged)) ∧
      ((o.course = .insert ∨ o.course = .replace) →
        let t := done 0x01 merged
        (t.takes (.session r) = true →
          exec .postingBufferMerge s = .next (t.offer (.session r) false false)) ∧
        (t.takes (.session r) = false → ∀ e, t.sessions.holding r.key = some e →
          exec .postingBufferMerge s = .next { t with
            sessions := t.sessions.setRefresh e.slot (some (t.sessions.clock + 1000000)) })))

/-- HOUSEKEEPING_REMOVAL when the arbiter reaches it (R72, R79, R82): of the entries that have ended by the pass's day and minute,
with 30 min of grace, and the expired tombstones, the one of the lowest slot not yet passed is removed with its changed mark and its
refresh request (R74), and the Composer is told. TOMBSTONE_EXPIRY (R62, R71): an expired tombstone is refreshed no more, and a refresh of it that waits is
dropped. By the model's choice: log entries 11 (reached counts as passed) and 12 (where a pass stands). -/
def Claims.HousekeepingRemovesWhatHasEnded : Prop :=
  (∀ (s : State) (p : HousekeepingPass) (e : SessionEntry), s.sessions.running = some p →
    s.grant = some .housekeeping → e ∈ s.sessions.entries → p.next ≤ e.slot →
    let past (x : SessionEntry) : Prop :=
      if x.record.status = .withdrawn then ∃ t, x.expiry = some t ∧ t ≤ s.sessions.clock
      else (1 ≤ (p.day + 256 - x.record.day % 256) % 256 ∧ (p.day + 256 - x.record.day % 256) % 256 ≤ 127) ∨
        (x.record.day = p.day ∧ x.record.endMin + 30 ≤ p.minute)
    past e → (∀ x ∈ s.sessions.entries, p.next ≤ x.slot → past x → x ≠ e → e.slot < x.slot) →
    exec .housekeepingRemoval s = .next { s with
      sessions := { s.sessions with
        entries := s.sessions.entries.filter fun x => decide (x.slot ≠ e.slot)
        changed := s.sessions.changed.filter fun i => decide (i ≠ e.slot)
        refreshReqs := s.sessions.refreshReqs.filter fun q => decide (q.2 ≠ e.slot)
        running := some { p with next := e.slot + 1 } }.settle
      composer := s.composer.onSessions s.settings s.passNow
        [{ key := (e.record.publisher, e.record.number), before := some (e.record.rooms, e.record.plenary),
           after := none }] }) ∧
  (∀ (s : State) (slot : Nat) (e : SessionEntry) (t : Nat), s.sessions.atSlot slot = some e → e.expiry = some t →
    t ≤ s.sessions.clock →
    exec (.tombstoneExpiry slot) s = .next { s with sessions := { s.sessions with
      entries := s.sessions.entries.map fun x => if x.slot = slot then { x with nextRefresh := none } else x
      refreshReqs := s.sessions.refreshReqs.filter fun q => decide (q.2 ≠ slot) } })

/-- REFRESH_DUE (R74): a due entry's slot is requested once, earliest due first and lowest slot among equals. REFRESH_SCAN_GRANT when
the arbiter reaches it (R62, R74, R79): a refreshable entry still due, in the home room or of origin LOCAL and no expired tombstone, is
offered with REFRESH set and scheduled 60 s and the stagger later, or 1 s later where the offer is refused; a slot that is no longer due
is passed over. By the model's choice: log entries 11 (an expiry time reached counts as passed) and 35 (a request outstanding keeps its
place). -/
def Claims.RefreshIsRequestedAndOffered : Prop :=
  (∀ (s : State) (slot due : Nat) (e : SessionEntry), s.sessions.atSlot slot = some e → e.nextRefresh = some due →
    due ≤ s.sessions.clock → (∀ q ∈ s.sessions.refreshReqs, q.2 ≠ slot) →
    ∃ sooner later, s.sessions.refreshReqs = sooner ++ later ∧
      exec (.refreshDue slot) s = .next { s with sessions := { s.sessions with
        refreshReqs := sooner ++ (due, slot) :: later } } ∧
      (∀ q ∈ sooner, q.1 < due ∨ (q.1 = due ∧ q.2 < slot)) ∧
      (∀ q, later.head? = some q → due < q.1 ∨ (due = q.1 ∧ slot < q.2))) ∧
  (∀ (s : State) (slot : Nat), (∃ q ∈ s.sessions.refreshReqs, q.2 = slot) → exec (.refreshDue slot) s = .next s) ∧
  (∀ (s : State) (d slot : Nat) (rest : List (Nat × Nat)), s.sessions.refreshReqs = (d, slot) :: rest →
    s.grant = some .refreshScan →
    let t : State := { s with sessions := { s.sessions with refreshReqs := rest } }
    let refreshable (e : SessionEntry) : Prop :=
      ((s.settings.homeRoom ≠ 0 ∧ s.settings.homeRoom ∈ e.record.rooms) ∨ e.isLocal = true) ∧
        ¬(e.record.status = .withdrawn ∧ ∃ t, e.expiry = some t ∧ t ≤ s.sessions.clock)
    (∀ e, s.sessions.atSlot slot = some e → refreshable e →
      (∃ n, e.nextRefresh = some n ∧ n ≤ s.sessions.clock) →
      exec .refreshScanGrant s = .next { t.offer (.session e.record) true false with
        sessions := t.sessions.setRefresh slot (some
          (if s.takes (.session e.record) then s.sessions.clock + 60000000 + s.settings.stationId % 16 * 250000
            else s.sessions.clock + 1000000)) }) ∧
    ((∀ e, s.sessions.atSlot slot = some e → ¬refreshable e ∨
        ∀ n, e.nextRefresh = some n → s.sessions.clock < n) →
      exec .refreshScanGrant s = .next t))

/-- HOUSEKEEPING_REMOVAL, TOMBSTONE_EXPIRY, REFRESH_DUE and REFRESH_SCAN_GRANT. -/
def Obligations.HousekeepingAndRefresh : Prop :=
  Claims.HousekeepingRemovesWhatHasEnded ∧ Claims.RefreshIsRequestedAndOffered

/-- R79: whom the arbiter grants the store: of the requesters that wait, the inbound merge, the posting-buffer merge, the Composer read,
the local-port read, and housekeeping and the refresh scan, of these a removal first; none where none waits. The command of a requester
that is not granted does nothing. By the model's choice: log entries 5 (a command that cannot come about), 9 (the store is free between
commands) and 12 (a running pass has an entry to remove). -/
def Claims.StoreIsGrantedInOrder : Prop :=
  ∀ s : State,
    let merge : Prop := ∃ f rest r, s.inbound = f :: rest ∧ f.body = .session r
    let post : Prop := s.sessions.posting ≠ none
    let compose : Prop := ∃ p, s.composer.pass = some p ∧ p.known = true ∧
      (s.settings.homeRoom ≠ 0 ∨ s.settings.directory ≠ []) ∧ p.slots.length < 64
    let read : Prop := ∃ i, s.port.inHand = some (.readSession i)
    (merge → s.grant = some .inboundMerge) ∧
    (¬merge → (post → s.grant = some .postingMerge) ∧
      (¬post → (compose → s.grant = some .composerRead) ∧
        (¬compose → (read → s.grant = some .portRead) ∧
          (¬read → (s.sessions.running ≠ none → s.grant = some .housekeeping) ∧
            (s.sessions.running = none → s.grant =
              if s.sessions.refreshReqs = [] then none else some .refreshScan))))) ∧
    (s.grant ≠ some .postingMerge → exec .postingBufferMerge s = .next s) ∧
    (s.grant ≠ some .composerRead → exec .composerSessionRead s = .next s) ∧
    (s.grant ≠ some .portRead → exec .localPortSessionRead s = .next s) ∧
    (s.grant ≠ some .housekeeping → exec .housekeepingRemoval s = .next s) ∧
    (s.grant ≠ some .refreshScan → exec .refreshScanGrant s = .next s)

/-- COMPOSER_SESSION_READ and LOCAL_PORT_SESSION_READ when the arbiter reaches them (R79 to R81, R177): the pass takes the next slot's
entry, whole, or its emptiness; READ SESSION by index answers the slot's entry or NOT_FOUND and clears no mark; NEXT-CHANGED answers the
head of the order of changed marks and takes it out, or NOT_FOUND. By the model's choice: log entries 36 (an arrival time is sent as
the whole ms that have passed) and 42 (unnamed bits of the entry flags and of the record flags are 0). -/
def Claims.GrantedReadsReturnOneEntry : Prop :=
  (∀ (s : State) (p : Pass), s.composer.pass = some p → s.grant = some .composerRead →
    exec .composerSessionRead s = .next { s with composer := { s.composer with
      pass := some { p with slots := p.slots ++ [(s.sessions.atSlot p.slots.length).map fun e =>
        { slot := e.slot, record := e.record, arrival := e.arrival, isLocal := e.isLocal
          tombstone := decide (e.record.status = .withdrawn), changed := decide (e.slot ∈ s.sessions.changed) }] } } }) ∧
  (∀ s : State, s.grant = some .portRead →
    let entry (e : SessionEntry) : List Byte :=
      [byte e.slot] ++ be32 (e.arrival / 1000 % 4294967296)
        ++ [byte ((if e.isLocal then 1 else 0) + (if e.record.status = .withdrawn then 2 else 0)
              + (if e.slot ∈ s.sessions.changed then 4 else 0))]
        ++ [byte (encodeRecord e.record).length] ++ encodeRecord e.record
    (∀ i e, s.port.inHand = some (.readSession i) → i ≠ 255 → s.sessions.atSlot i = some e →
      exec .localPortSessionRead s = .next (s.finishes ([0x00, 0x06] ++ entry e))) ∧
    (∀ i, s.port.inHand = some (.readSession i) → i ≠ 255 → s.sessions.atSlot i = none →
      exec .localPortSessionRead s = .next (s.finishes [0x0B, 0x06])) ∧
    (∀ i rest e, s.port.inHand = some (.readSession 255) → s.sessions.changed = i :: rest → s.sessions.atSlot i = some e →
      exec .localPortSessionRead s = .next { s.finishes ([0x00, 0x06] ++ entry e) with
        sessions := { s.sessions with changed := rest } }) ∧
    (s.port.inHand = some (.readSession 255) → s.sessions.changed = [] →
      exec .localPortSessionRead s = .next (s.finishes [0x0B, 0x06])))

/-- The port arbiter, and the reads it grants (R79 to R81). -/
def Obligations.SessionReadsReturnOneEntry : Prop :=
  Claims.StoreIsGrantedInOrder ∧ Claims.GrantedReadsReturnOneEntry

/-- R61, R63, R74, R81: over every step the Session Table holds at most one entry to a slot 0..63 and one to a key, no two with one arrival
time, each changed mark once, of a held entry, and refresh requests of held entries alone. By the model's choice: log entries 10 (entries in order of arrival) and 34 (how
arrival times are kept apart). -/
def Obligations.SessionTableInvariantIsKept : Prop :=
  ∀ s t : State, TableOk s.sessions → step s = .next t → TableOk t.sessions

/-! ## Routes (chapters 5 and 6) -/

/-- R85: a lower rank is better: first by class, finite, CLOSED, UNKNOWN, UNREACHABLE; within finite by metres and then by hop count,
within CLOSED by hop count. Two costs have equal rank in the four cases of R85 alone, which are those of equal costs. -/
def Obligations.CostsAreRankedByTheRule : Prop :=
  (∀ m h n k, Cost.better (.finite m h) (.finite n k) = true ↔ m < n ∨ (m = n ∧ h < k)) ∧
  (∀ h k, Cost.better (.closed h) (.closed k) = true ↔ h < k) ∧
  (∀ m h k, Cost.better (.finite m h) (.closed k) = true ∧ Cost.better (.finite m h) .unknown = true ∧
    Cost.better (.finite m h) .unreachable = true ∧ Cost.better (.closed k) .unknown = true ∧
    Cost.better (.closed k) .unreachable = true ∧ Cost.better .unknown .unreachable = true) ∧
  (∀ x y : Cost, (x.better y = false ∧ y.better x = false) ↔
    (∃ m h, x = .finite m h ∧ y = .finite m h) ∨ (∃ h, x = .closed h ∧ y = .closed h) ∨
      (x = .unknown ∧ y = .unknown) ∨ (x = .unreachable ∧ y = .unreachable)) ∧
  (∀ x y : Cost, x.better y = true → y.better x = false) ∧
  (∀ x y z : Cost, x.better y = true → y.better z = true → x.better z = true)

/-- R88 to R92: a link's candidate is formed by the first case that matches, with the notice the case names. -/
def Claims.CandidateIsFormedByTheFirstCase : Prop :=
  ∀ (st : Settings) (closed : ZoneVec) (level : Bool) (k : Link) (v : Option AdvValue),
    let formed := candidate st closed level k v
    ((level = true ∧ k.stairs = true) → formed = { cost := .unreachable, notices := 0 }) ∧
    (¬(level = true ∧ k.stairs = true) →
      (v = none → formed = { cost := .unknown, notices := 0 }) ∧
      (∀ via, v = some { cost := .unknown, via := via } → formed = { cost := .unknown, notices := 0 }) ∧
      (∀ via, v = some { cost := .unreachable, via := via } → formed = { cost := .unreachable, notices := 0 }) ∧
      (∀ via h, v = some { cost := .closed h, via := via } → formed =
        if via = st.stationId then { cost := .unreachable, notices := 0 }
        else if 31 ≤ h then { cost := .unreachable, notices := 0x2000#16 }
        else { cost := .closed (h + 1), notices := 0 }) ∧
      (∀ via c h, v = some { cost := .finite c h, via := via } → formed =
        if via = st.stationId then { cost := .unreachable, notices := 0 }
        else if 31 ≤ h then { cost := .unreachable, notices := 0x2000#16 }
        else if closed.getLsbD k.zone = true then { cost := .closed (h + 1), notices := 0 }
        else if c + k.length ≤ 32000 then { cost := .finite (c + k.length) (h + 1), notices := 0 }
        else if st.policy = .limit then { cost := .finite 32000 (h + 1), notices := 0x1000#16 }
        else { cost := .unreachable, notices := 0x1000#16 }))

/-- R93, R94: a recomputed entry of another room has in each profile the candidate of lowest rank, of several the one of the lowest
link index, with link "none" where it is UNKNOWN or UNREACHABLE (ANY before reconciliation); the home room's has the home
candidate. -/
def Obligations.BestIsTheLowestCandidate : Prop :=
  ∀ (st : Settings) (closed : ZoneVec) (level : Bool) (x : RouteEntry),
    (st.homeRoom ≠ 0 → x.room = st.homeRoom → x.selected st closed level =
      { cost := if closed.getLsbD st.zone = true then .closed 0 else .finite 0 0, link := none }) ∧
    ((st.homeRoom = 0 ∨ x.room ≠ st.homeRoom) → (st.links.map (·.index)).Pairwise (· < ·) →
      let cost (k : Link) : Cost := (candidate st closed level k (x.held level k.index)).cost
      (st.links = [] → x.selected st closed level = { cost := .unknown, link := none }) ∧
      (∀ k ∈ st.links, (cost k).better (x.selected st closed level).cost = false) ∧
      (st.links ≠ [] → ∃ k ∈ st.links, (x.selected st closed level).cost = cost k ∧
        (x.selected st closed level).link =
          (if cost k = .unknown ∨ cost k = .unreachable then none else some k.index) ∧
        ∀ j ∈ st.links, j.index < k.index → (cost k).better (cost j) = true))

/-- R95: reconciliation gives an ANY best that ranks below the LEVEL best the LEVEL best's values and keeps it otherwise, and never
changes the LEVEL best; over every step, in every Route Table entry the LEVEL best never ranks better than the ANY best. -/
def Obligations.LevelNeverRanksBelowAny : Prop :=
  (∀ (st : Settings) (closed : ZoneVec) (x : RouteEntry),
    (x.recomputed st closed).level = x.selected st closed true ∧
    ((x.selected st closed true).cost.better (x.selected st closed false).cost = true →
      (x.recomputed st closed).any = x.selected st closed true) ∧
    ((x.selected st closed true).cost.better (x.selected st closed false).cost = false →
      (x.recomputed st closed).any = x.selected st closed false)) ∧
  (∀ s t : State, LevelBelowAny s → step s = .next t → LevelBelowAny t)

/-- R97, R112: what the station advertises of a best; the own zone is read from the kept vector. By the model's choice: log entry
19 (the kept vector). -/
def Claims.AdvertisedValueFollowsTheTable : Prop :=
  ∀ (st : Settings) (kept : ZoneVec) (k : Link), k ∈ st.links → (st.links.map (·.index)).Nodup →
    let own := kept.getLsbD st.zone
    (∀ c h, Best.advertised st kept { cost := .finite c h, link := some k.index } =
      { cost := if own = true then .closed h else .finite c h, via := k.neighbour }) ∧
    (∀ h, Best.advertised st kept { cost := .closed h, link := some k.index } = { cost := .closed h, via := k.neighbour }) ∧
    (own = false → Best.advertised st kept { cost := .finite 0 0, link := none } = { cost := .finite 0 0, via := 0 }) ∧
    Best.advertised st kept { cost := .closed 0, link := none } = { cost := .closed 0, via := 0 } ∧
    Best.advertised st kept { cost := .unknown, link := none } = { cost := .unknown, via := 0 } ∧
    Best.advertised st kept { cost := .unreachable, link := none } = { cost := .unreachable, via := 0 }

/-- R88 to R92 and R97: candidates formed and values advertised. -/
def Obligations.CandidatesAndAdvertisedValues : Prop :=
  Claims.CandidateIsFormedByTheFirstCase ∧ Claims.AdvertisedValueFollowsTheTable

/-- R98, R131: a route part. Its state is the glyph of a finite ANY best's link, THIS_ROOM for one with link "none", CLOSED, NO_ROUTE_YET
for UNKNOWN and ASK_STAFF for UNREACHABLE. Its distance is "here" (0) for 0 m, else the cost rounded to the nearest 10 m, a 5 upwards,
at least 10 m; none for a best that is not finite. Its step-free marker is SAME for a finite LEVEL best with the ANY best's link,
OTHER_WAY with its glyph for one with another, and NONE_KNOWN otherwise; the LEVEL best's cost is not shown. -/
def Obligations.DisplayedDistanceIsRounded : Prop :=
  ∀ v : RouteView,
    (∀ h, v.any.cost = .finite 0 h → v.part.distance = some 0) ∧
    (∀ m h, v.any.cost = .finite m h → m ≠ 0 → ∃ d, v.part.distance = some d ∧ d = max 10 (10 * ((m + 5) / 10)) ∧
      10 ≤ d ∧ d % 10 = 0 ∧ (5 ≤ m → d ≤ m + 5 ∧ m < d + 5)) ∧
    ((∀ m h, v.any.cost ≠ .finite m h) → v.part.distance = none) ∧
    (∀ m h, v.any.cost = .finite m h → (v.any.link = none → v.part.state = .thisRoom) ∧
      (∀ i, v.any.link = some i → v.part.state = .glyph v.anyGlyph)) ∧
    ((∀ h, v.any.cost = .closed h → v.part.state = .closed) ∧ (v.any.cost = .unknown → v.part.state = .noRouteYet) ∧
      (v.any.cost = .unreachable → v.part.state = .askStaff)) ∧
    (∀ m h, v.level.cost = .finite m h →
      v.part.stepFree = if v.level.link = v.any.link then .same else .otherWay v.levelGlyph) ∧
    ((∀ m h, v.level.cost ≠ .finite m h) → v.part.stepFree = .noneKnown)

/-- R101: which job the Route Engine goes on with. A read that waits comes before every job; then the job in hand; then, of those that
wait, a condition recomputation, a pin-set update, an advert job, the building of frames, a sweep. The command of another job does
nothing. ADVERT_HANDOVER (R34, R102): with no entry of an earlier advert still to be applied the head ADVERT becomes the waiting advert
job, heard now. By the model's choice: log entries 5 (the command of a job that another precedes does nothing) and 9 (reads between the
entries of a job). -/
def Claims.RouteJobsComeInOrder : Prop :=
  ∀ s : State,
    let e := s.routes
    let read : Prop := s.composerWantsRoute ≠ none ∨ ∃ room, s.port.inHand = some (.readRoute room)
    let frames : Prop := (e.promptDue = true ∧ e.promptSet ≠ []) ∨ e.round = .due
    (read → s.nextJob = none) ∧
    (¬read → (∀ h, e.inHand = some h → s.nextJob = some h.job) ∧ (e.inHand = none →
      (e.conditionJob = true → s.nextJob = some .condition) ∧ (e.conditionJob = false →
        (e.pinJob ≠ none → s.nextJob = some .pins) ∧ (e.pinJob = none →
          (e.advertJob ≠ none → s.nextJob = some .advert) ∧ (e.advertJob = none →
            (frames → s.nextJob = some .frames) ∧ (¬frames →
              s.nextJob = if e.sweepJob then some .sweep else none)))))) ∧
    (s.nextJob ≠ some .condition → exec .conditionRecomputation s = .next s) ∧
    (s.nextJob ≠ some .pins → exec .pinSetUpdate s = .next s) ∧
    (s.nextJob ≠ some .advert → exec .advertJob s = .next s) ∧
    (s.nextJob ≠ some .sweep → exec .sweep s = .next s) ∧
    (s.nextJob ≠ some .frames → exec .frameBuilding s = .next s) ∧
    (∀ f rest es, s.inbound = f :: rest → f.body = .advert es → e.advertJob = none →
      (∀ h, e.inHand = some h → h.job ≠ .advert) →
      exec .advertHandover s = .next { s with
        inbound := rest
        routes := { e with advertJob := some { source := f.source, entries := es, heard := e.clock } } })

/-- ADVERT_JOB, CONDITION_RECOMPUTATION, PIN_SET_UPDATE and SWEEP, each as the job to go on with (R100 to R102, R108, R111): a waiting
job is taken into hand with its entry operations in order; the command does all that are left, and the block by itself does one and
keeps the rest in hand; the notices are raised and the reports reach the Composer; nothing else of the station changes. By the model's
choice: log entries 9 (one operation at a time) and 19 (the operations read the vector in force). -/
def Claims.RouteJobsRunTheirOperations : Prop :=
  ∀ s : State,
    let st := s.settings
    let closed := s.zones.aggClosed
    let e := s.routes
    let after (upTo : Option Nat) (h : JobInHand) (e : RouteEngine) : State :=
      let n := upTo.getD h.left.length
      let o := (h.left.take n).foldl (RouteOut.doOp st closed)
        { eng := { e with inHand := some h }, notices := 0, reports := [] }
      { s with
        routes := { o.eng with
          inHand := if h.left.drop n = [] then none else some { job := h.job, left := h.left.drop n } }
        composer := s.composer.onRoutes s.passNow o.reports
        port := { s.port with notices := s.port.notices ||| o.notices } }
    let goes (c : Instr) (h : JobInHand) (e : RouteEngine) : Prop :=
      exec c s = .next (after none h e) ∧ s.doJob h.job (some 1) = after (some 1) h e
    let pinned (pins : List Nat) (r : Nat) : Bool :=
      decide ((st.homeRoom ≠ 0 ∧ r = st.homeRoom) ∨ r ∈ st.directory ∨ r ∈ pins)
    (∀ h c, e.inHand = some h → s.nextJob = some h.job →
      (h.job = .condition ∧ c = .conditionRecomputation ∨ h.job = .pins ∧ c = .pinSetUpdate ∨
        h.job = .advert ∧ c = .advertJob ∨ h.job = .sweep ∧ c = .sweep) → goes c h e) ∧
    (e.inHand = none →
      (s.nextJob = some .condition → goes .conditionRecomputation
        { job := .condition
          left := e.entries.map fun x => .recompute x.room (decide (closed.getLsbD st.zone ≠ e.kept.getLsbD st.zone)) }
        { e with kept := closed, conditionJob := false }) ∧
      (∀ pins, e.pinJob = some pins → s.nextJob = some .pins → goes .pinSetUpdate
        { job := .pins
          left := ((e.entries.filter fun x => decide (x.pinned ≠ pinned pins x.room)).map fun x => .repin x.room)
            ++ (pins.filter fun r => decide (r ∉ e.pinSet)).map .create }
        { e with pinSet := pins, pinJob := none }) ∧
      (∀ j, e.advertJob = some j → s.nextJob = some .advert → goes .advertJob
        { job := .advert, left := j.entries.map fun a => .apply j.source j.heard a } { e with advertJob := none }) ∧
      (s.nextJob = some .sweep → goes .sweep
        { job := .sweep, left := (e.entries.map fun x => .age x.room e.clock) ++ e.pinSet.map .create }
        { e with sweepJob := false }))

/-- ADVERT_HANDOVER and the jobs on the Route Table. -/
def Obligations.RouteJobsAreDoneWhole : Prop :=
  Claims.RouteJobsComeInOrder ∧ Claims.RouteJobsRunTheirOperations

/-- R102 to R104, R106, R107: an advert entry for a room in the table, or for one that gets an entry in a table with room, replaces the
stored values of every link the frame serves, heard at the hand-over, and no others; the entry is recomputed with the notices of its
candidates, and a changed best raises the change count once, joins the prompt set and is reported with the new bests; joining an empty
set starts the prompt timer, and no other room does (R115). Every other room's entry stays. -/
def Claims.AdvertEntryUpdatesItsRoom : Prop :=
  ∀ (st : Settings) (closed : ZoneVec) (e : RouteEngine) (source heard : Nat) (a : AdvertEntry) (x : RouteEntry),
    let fresh : RouteEntry :=
      { room := a.room, any := { cost := .unknown, link := none }, level := { cost := .unknown, link := none }, stored := []
        pinned := decide ((st.homeRoom ≠ 0 ∧ a.room = st.homeRoom) ∨ a.room ∈ st.directory ∨ a.room ∈ e.pinSet)
        changeCount := 0 }
    (e.entries.map (·.room)).Pairwise (· < ·) → (st.links.map (·.index)).Nodup → (x.stored.map (·.link)).Nodup →
    (e.entry a.room = some x ∨ (e.entry a.room = none ∧ e.entries.length < 256 ∧ x = fresh)) →
    let o := RouteOut.doOp st closed { eng := e, notices := 0, reports := [] } (.apply source heard a)
    ∃ y, o.eng.entry a.room = some y ∧ y.pinned = x.pinned ∧
      (∀ k ∈ st.links, k.neighbour = source →
        y.storedFor k.index = some { link := k.index, any := a.any, level := a.level, heard := heard }) ∧
      (∀ i, (∀ k ∈ st.links, k.neighbour = source → k.index ≠ i) → y.storedFor i = x.storedFor i) ∧
      y.any = (y.recomputed st closed).any ∧ y.level = (y.recomputed st closed).level ∧
      (∀ i, o.notices.getLsbD i = true ↔ ∃ level, ∃ k ∈ st.links,
        (candidate st closed level k (y.held level k.index)).notices.getLsbD i = true) ∧
      (y.any = x.any ∧ y.level = x.level → y.changeCount = x.changeCount ∧ o.reports = [] ∧
        o.eng.promptSet = e.promptSet) ∧
      (¬(y.any = x.any ∧ y.level = x.level) → y.changeCount = (x.changeCount + 1) % 65536 ∧
        o.reports = [.changed a.room y.any y.level] ∧ a.room ∈ o.eng.promptSet) ∧
      o.eng.promptAt = (if e.promptSet = [] ∧ o.eng.promptSet ≠ [] then some (e.clock + 1000000) else e.promptAt) ∧
      (∀ r, r ≠ a.room → o.eng.entry r = e.entry r)

/-- R103 to R107, R115: an advert entry for a room without one, into a full table: where the arriving ANY candidate ranks better than
the victim's ANY best the victim is removed and reported, a known one joins the prompt set, and the room takes an entry with the stored
values of every link the frame serves, recomputed with the notices of its candidates; where its bests are other than UNKNOWN they are
reported after the removal and the room joins the prompt set as well. Otherwise, or with every entry pinned, the advert entry is skipped
and ROUTE_TABLE_FULL is raised. -/
def Claims.FullRouteTableReplacesOrSkips : Prop :=
  ∀ (st : Settings) (closed : ZoneVec) (e : RouteEngine) (source heard : Nat) (a : AdvertEntry),
    (e.entries.map (·.room)).Pairwise (· < ·) → 256 ≤ e.entries.length → e.entry a.room = none →
    (∃ k ∈ st.links, k.neighbour = source) →
    let o := RouteOut.doOp st closed { eng := e, notices := 0, reports := [] } (.apply source heard a)
    let skipped : RouteOut := { eng := e, notices := 0x0800#16, reports := [] }
    ((∀ x ∈ e.entries, x.pinned = true) → o = skipped) ∧
    (∀ v, VictimOf e v →
      let better : Prop := ∃ k ∈ st.links, k.neighbour = source ∧
        (candidate st closed false k (some a.any)).cost.better v.any.cost = true
      (¬better → o = skipped) ∧
      (better → o.reports.head? = some (.removed v.room) ∧ o.eng.entry v.room = none ∧
        o.eng.entries.length = e.entries.length ∧
        (∀ r, r ≠ a.room → r ≠ v.room → o.eng.entry r = e.entry r) ∧
        o.eng.promptAt = (if e.promptSet = [] ∧ o.eng.promptSet ≠ [] then some (e.clock + 1000000) else e.promptAt) ∧
        ∃ y, o.eng.entry a.room = some y ∧
          (y.pinned = true ↔ (st.homeRoom ≠ 0 ∧ a.room = st.homeRoom) ∨ a.room ∈ st.directory ∨ a.room ∈ e.pinSet) ∧
          ((st.links.map (·.index)).Nodup → ∀ k ∈ st.links, k.neighbour = source →
            y.storedFor k.index = some { link := k.index, any := a.any, level := a.level, heard := heard }) ∧
          (∀ i, (∀ k ∈ st.links, k.neighbour = source → k.index ≠ i) → y.storedFor i = none) ∧
          y.any = (y.recomputed st closed).any ∧ y.level = (y.recomputed st closed).level ∧
          (∀ i, o.notices.getLsbD i = true ↔ ∃ level, ∃ k ∈ st.links,
            (candidate st closed level k (y.held level k.index)).notices.getLsbD i = true) ∧
          (let nothing : Best := { cost := .unknown, link := none }
           let known : Prop := v.any.cost ≠ .unknown ∨ v.level.cost ≠ .unknown
           (y.any = nothing ∧ y.level = nothing → y.changeCount = 0 ∧ o.reports = [.removed v.room] ∧
            ∀ r, r ∈ o.eng.promptSet ↔ r ∈ e.promptSet ∨ (r = v.room ∧ known)) ∧
           (¬(y.any = nothing ∧ y.level = nothing) → y.changeCount = 1 ∧
            o.reports = [.removed v.room, .changed a.room y.any y.level] ∧
            ∀ r, r ∈ o.eng.promptSet ↔ r ∈ e.promptSet ∨ (r = v.room ∧ known) ∨ r = a.room))))

/-- R100, R104, R105: a room of the pin set without an entry gets an UNKNOWN one, in a full table in place of the victim whatever its
rank; with every entry pinned it gets none and ROUTE_TABLE_FULL is raised. An entry's pinned flag follows the home room, the directory
and the pin set. Nothing is reported but a removal, and nothing joins the prompt set but a removed room with a known best. -/
def Claims.PinnedRoomsGetEntries : Prop :=
  ∀ (st : Settings) (closed : ZoneVec) (e : RouteEngine) (room : Nat), (e.entries.map (·.room)).Pairwise (· < ·) →
    let pinned : Bool := decide ((st.homeRoom ≠ 0 ∧ room = st.homeRoom) ∨ room ∈ st.directory ∨ room ∈ e.pinSet)
    let fresh : RouteEntry :=
      { room := room, any := { cost := .unknown, link := none }, level := { cost := .unknown, link := none }, stored := []
        pinned := pinned, changeCount := 0 }
    let work : RouteOut := { eng := e, notices := 0, reports := [] }
    let made := RouteOut.doOp st closed work (.create room)
    let flagged := RouteOut.doOp st closed work (.repin room)
    (e.entry room ≠ none → made = work) ∧
    (e.entry room = none → flagged = work ∧
      (e.entries.length < 256 → made.notices = 0 ∧ made.reports = [] ∧ made.eng = { e with entries := made.eng.entries } ∧
        made.eng.entry room = some fresh ∧ ∀ r, r ≠ room → made.eng.entry r = e.entry r) ∧
      (256 ≤ e.entries.length → (∀ x ∈ e.entries, x.pinned = true) → made = { work with notices := 0x0800#16 }) ∧
      (256 ≤ e.entries.length → ∀ v, VictimOf e v → made.notices = 0 ∧ made.reports = [.removed v.room] ∧
        made.eng.entry v.room = none ∧ made.eng.entry room = some fresh ∧
        (∀ r, r ∈ made.eng.promptSet ↔ r ∈ e.promptSet ∨ (r = v.room ∧ (v.any.cost ≠ .unknown ∨ v.level.cost ≠ .unknown))) ∧
        made.eng.promptAt =
          (if e.promptSet = [] ∧ made.eng.promptSet ≠ [] then some (e.clock + 1000000) else e.promptAt) ∧
        ∀ r, r ≠ room → r ≠ v.room → made.eng.entry r = e.entry r)) ∧
    (∀ x, e.entry room = some x → flagged = { work with eng := { e with entries := flagged.eng.entries } } ∧
      flagged.eng.entry room = some { x with pinned := pinned } ∧ ∀ r, r ≠ room → flagged.eng.entry r = e.entry r)

/-- R100, R102 to R107: an advert entry applied, creation and replacement, and pins. -/
def Obligations.AdvertEntryIsApplied : Prop :=
  Claims.AdvertEntryUpdatesItsRoom ∧ Claims.FullRouteTableReplacesOrSkips ∧ Claims.PinnedRoomsGetEntries

/-- R92, R96, R106, R107, R111, R115: one entry of a condition recomputation is judged against the kept vector, with the notices of its
candidates. A changed best raises the change count once, is reported, and the room joins the prompt set, as does one with a finite best
where the own zone's bit has changed; an unchanged entry stays as it was, unreported. Joining an empty set starts the prompt timer.
Nothing else changes. -/
def Claims.RecomputedEntryTellsOfAChange : Prop :=
  ∀ (st : Settings) (closed : ZoneVec) (e : RouteEngine) (room : Nat) (own : Bool), (e.entries.map (·.room)).Pairwise (· < ·) →
    let work : RouteOut := { eng := e, notices := 0, reports := [] }
    let o := RouteOut.doOp st closed work (.recompute room own)
    (e.entry room = none → o = work) ∧
    ∀ x, e.entry room = some x →
      let y := x.recomputed st e.kept
      let changed : Prop := ¬(y.any = x.any ∧ y.level = x.level)
      let finite : Prop := (∃ m h, y.any.cost = .finite m h) ∨ ∃ m h, y.level.cost = .finite m h
      (¬changed → o.eng.entry room = some x ∧ o.reports = []) ∧
      (changed → o.eng.entry room = some { y with changeCount := (x.changeCount + 1) % 65536 } ∧
        o.reports = [.changed room y.any y.level]) ∧
      (∀ r, r ∈ o.eng.promptSet ↔ r ∈ e.promptSet ∨ (r = room ∧ (changed ∨ (own = true ∧ finite)))) ∧
      o.eng.promptAt = (if e.promptSet = [] ∧ o.eng.promptSet ≠ [] then some (e.clock + 1000000) else e.promptAt) ∧
      (∀ i, o.notices.getLsbD i = true ↔ ∃ level, ∃ k ∈ st.links,
        (candidate st e.kept level k (x.held level k.index)).notices.getLsbD i = true) ∧
      (∀ r, r ≠ room → o.eng.entry r = e.entry r) ∧
      o.eng = { e with entries := o.eng.entries, promptSet := o.eng.promptSet, promptAt := o.eng.promptAt }

/-- R92, R106 to R109, R115: one entry of a sweep loses its values heard 100 s or more before it, and is recomputed if it has lost any, with
what a changed best brings. It is then removed and reported where it is unpinned and no link holds a value other than UNKNOWN, and joins
the prompt set if a best it held was other than UNKNOWN. Nothing else changes. By the model's choice: log entries 19 (the vector in
force) and 44 (values are held until the sweep). -/
def Claims.SweptEntryTellsOfAChange : Prop :=
  ∀ (st : Settings) (closed : ZoneVec) (e : RouteEngine) (room moment : Nat), (e.entries.map (·.room)).Pairwise (· < ·) →
    let work : RouteOut := { eng := e, notices := 0, reports := [] }
    let o := RouteOut.doOp st closed work (.age room moment)
    (e.entry room = none → o = work) ∧
    ∀ x, e.entry room = some x →
      let old : RouteEntry := { x with stored := x.stored.filter fun v => decide (moment < v.heard + 100000000) }
      let lost : Prop := ∃ v ∈ x.stored, v.heard + 100000000 ≤ moment
      let y := old.recomputed st closed
      let changed : Prop := lost ∧ ¬(y.any = x.any ∧ y.level = x.level)
      let dead : Prop := x.pinned = false ∧ ∀ k ∈ st.links, ∀ v, old.storedFor k.index = some v →
        v.any.cost = .unknown ∧ v.level.cost = .unknown
      let left (z : RouteEntry) (told : List RouteReport) : Prop :=
        (¬dead → o.eng.entry room = some z ∧ o.reports = told ∧
          ∀ r, r ∈ o.eng.promptSet ↔ r ∈ e.promptSet ∨ (r = room ∧ changed)) ∧
        (dead → o.eng.entry room = none ∧ o.reports = told ++ [.removed room] ∧
          ∀ r, r ∈ o.eng.promptSet ↔ r ∈ e.promptSet ∨
            (r = room ∧ (changed ∨ z.any.cost ≠ .unknown ∨ z.level.cost ≠ .unknown)))
      (¬lost → left x []) ∧
      (lost → ¬changed → left old []) ∧
      (changed → left { y with changeCount := (x.changeCount + 1) % 65536 } [.changed room y.any y.level]) ∧
      o.eng.promptAt = (if e.promptSet = [] ∧ o.eng.promptSet ≠ [] then some (e.clock + 1000000) else e.promptAt) ∧
      (∀ i, o.notices.getLsbD i = true ↔ lost ∧ ∃ level, ∃ k ∈ st.links,
        (candidate st closed level k (old.held level k.index)).notices.getLsbD i = true) ∧
      (∀ r, r ≠ room → o.eng.entry r = e.entry r) ∧
      o.eng = { e with entries := o.eng.entries, promptSet := o.eng.promptSet, promptAt := o.eng.promptAt }

/-- A condition recomputation, done whole, keeps the vector it reads and leaves every entry with the bests that vector gives; rooms,
stored values and pinned flags stay. The entries whose bests have changed have their change count raised by one and are reported, in
room order, and the others are as they were; the rooms that join the prompt set and the notices are those of all entries. -/
def Claims.ConditionRecomputationJudgesEveryEntry : Prop :=
  ∀ (st : Settings) (closed : ZoneVec) (e : RouteEngine), (e.entries.map (·.room)).Pairwise (· < ·) → e.inHand = none →
    let o := e.doJob st closed .condition none
    o.eng.kept = closed ∧ o.eng.conditionJob = false ∧ o.eng.inHand = none ∧
    o.eng.entries.map (fun x => (x.room, x.stored, x.pinned)) = e.entries.map (fun x => (x.room, x.stored, x.pinned)) ∧
    (∀ y ∈ o.eng.entries, y.any = (y.recomputed st closed).any ∧ y.level = (y.recomputed st closed).level) ∧
    (closed.getLsbD st.zone ≠ e.kept.getLsbD st.zone → ∀ y ∈ o.eng.entries,
      ((∃ m h, y.any.cost = .finite m h) ∨ ∃ m h, y.level.cost = .finite m h) → y.room ∈ o.eng.promptSet) ∧
    (let new (x : RouteEntry) : RouteEntry := x.recomputed st closed
     let same (x : RouteEntry) : Bool := decide ((new x).any = x.any ∧ (new x).level = x.level)
     o.eng.entries = (e.entries.map fun x => if same x then x else { new x with changeCount := (x.changeCount + 1) % 65536 }) ∧
     o.reports = ((e.entries.filter fun x => !same x).map fun x => .changed x.room (new x).any (new x).level) ∧
     (∀ r, r ∈ o.eng.promptSet ↔ r ∈ e.promptSet ∨ ∃ x ∈ e.entries, x.room = r ∧ (same x = false ∨
       (closed.getLsbD st.zone ≠ e.kept.getLsbD st.zone ∧
         ((∃ m h, (new x).any.cost = .finite m h) ∨ ∃ m h, (new x).level.cost = .finite m h)))) ∧
     o.eng.promptAt = (if e.promptSet = [] ∧ o.eng.promptSet ≠ [] then some (e.clock + 1000000) else e.promptAt) ∧
     (∀ i, o.notices.getLsbD i = true ↔ ∃ x ∈ e.entries, ∃ level, ∃ k ∈ st.links,
       (candidate st closed level k (x.held level k.index)).notices.getLsbD i = true))

/-- A sweep, done whole, leaves no stored value heard 100 s or more ago, and no unpinned entry whose links hold nothing but UNKNOWN
values. Where every room of the pin set has its entry, an entry that is pinned or has a link with another value stays with its younger
values, as it was and unreported if it has lost none, else recomputed, with its change count, report and prompt set where a best has
changed; the others are removed and reported, and join the prompt set where a best was other than UNKNOWN. -/
def Claims.SweepLeavesNoAgedValue : Prop :=
  ∀ (st : Settings) (closed : ZoneVec) (e : RouteEngine), (e.entries.map (·.room)).Pairwise (· < ·) → e.inHand = none →
    let o := e.doJob st closed .sweep none
    let young (v : StoredValues) : Bool := decide (e.clock < v.heard + 100000000)
    o.eng.sweepJob = false ∧ o.eng.inHand = none ∧
    (∀ y ∈ o.eng.entries, (∀ v ∈ y.stored, e.clock < v.heard + 100000000) ∧
      (y.pinned = true ∨ ∃ k ∈ st.links, ∃ v, y.storedFor k.index = some v ∧
        (v.any.cost ≠ .unknown ∨ v.level.cost ≠ .unknown))) ∧
    ((∀ r ∈ e.pinSet, ∃ x ∈ e.entries, x.room = r ∧ x.pinned = true) → ∀ x ∈ e.entries,
      let live : Prop := ∃ k ∈ st.links, ∃ v, ((x.stored.filter young).find? fun v => decide (v.link = k.index)) = some v ∧
        (v.any.cost ≠ .unknown ∨ v.level.cost ≠ .unknown)
      (x.pinned = true ∨ live → ∃ y ∈ o.eng.entries, y.room = x.room ∧ y.pinned = x.pinned ∧
        y.stored = x.stored.filter young ∧ (y.stored = x.stored → y = x ∧ ∀ p ∈ o.reports, p.room ≠ x.room) ∧
        (y.stored ≠ x.stored → y.any = (y.recomputed st closed).any ∧ y.level = (y.recomputed st closed).level ∧
          (y.any = x.any ∧ y.level = x.level → y.changeCount = x.changeCount ∧ ∀ p ∈ o.reports, p.room ≠ x.room) ∧
          (¬(y.any = x.any ∧ y.level = x.level) → y.changeCount = (x.changeCount + 1) % 65536 ∧
            .changed x.room y.any y.level ∈ o.reports ∧ x.room ∈ o.eng.promptSet))) ∧
      (¬(x.pinned = true ∨ live) → (∀ y ∈ o.eng.entries, y.room ≠ x.room) ∧ .removed x.room ∈ o.reports ∧
        (x.any.cost ≠ .unknown ∨ x.level.cost ≠ .unknown → x.room ∈ o.eng.promptSet)))

/-- R92, R106 to R109, R111, R115: what a condition recomputation and a sweep leave, raise and report, entry by entry and whole. -/
def Obligations.ConditionsAndSweepLeaveNoStaleRoute : Prop :=
  Claims.RecomputedEntryTellsOfAChange ∧ Claims.SweptEntryTellsOfAChange ∧ Claims.ConditionRecomputationJudgesEveryEntry ∧ Claims.SweepLeavesNoAgedValue

/-- FRAME_BUILDING, when it is the job to be done (R97, R101, R112 to R116): a due prompt frame before a round frame, each of up to 20
rooms in ascending order, offered once, with the two values that R97 forms of each entry's bests against the kept vector, and UNKNOWN
with via 0 for a prompt room without an entry. A frame taken takes its rooms out of the prompt set, or moves the cursor past its last
room; a refused one is due again after 1 s, and so ROUND_RETRY builds the round frame again. A round with no room left to list has
finished. By the model's choice: log entries 19 (the kept vector) and 31 (a retry builds at once where nothing waits before it). -/
def Obligations.AdvertFramesAreBuiltAndOffered : Prop :=
  ∀ s : State,
    let value (b : Best) : AdvValue :=
      let via := match b.link with
        | some i => ((s.settings.links.find? fun k => decide (k.index = i)).map (·.neighbour)).getD 0
        | none => 0
      match b.cost with
      | .finite c h => { cost := if s.routes.kept.getLsbD s.settings.zone = true then .closed h else .finite c h, via := via }
      | .closed h => { cost := .closed h, via := via }
      | .unknown => { cost := .unknown, via := 0 }
      | .unreachable => { cost := .unreachable, via := 0 }
    let values (rooms : List Nat) : Body := .advert (rooms.map fun room =>
      match s.routes.entry room with
      | some x => { room := room, any := value x.any, level := value x.level }
      | none => { room := room, any := { cost := .unknown, via := 0 }, level := { cost := .unknown, via := 0 } })
    let known (e : RouteEntry) : Bool := decide (e.any.cost ≠ .unknown) || decide (e.level.cost ≠ .unknown)
    let listed (cursor : Nat) : List Nat :=
      (((s.routes.entries.filter fun e => decide (cursor ≤ e.room) && known e).map (·.room)).take 20)
    (s.nextJob = some .frames → s.routes.promptDue = true → s.routes.promptSet ≠ [] →
      let rooms := s.routes.promptSet.take 20
      let left := s.routes.promptSet.filter fun r => !rooms.contains r
      (s.takes (values rooms) = true → exec .frameBuilding s = .next { s.offer (values rooms) false true with
        routes := { s.routes with promptSet := left, promptDue := !left.isEmpty } }) ∧
      (s.takes (values rooms) = false → exec .frameBuilding s = .next { s with
        routes := { s.routes with promptDue := false, promptAt := some (s.routes.clock + 1000000) } })) ∧
    (∀ r, s.routes.round = .retryAt r → r ≤ s.routes.clock →
      ({ s with routes := { s.routes with round := .due } }.nextJob ≠ some .frames ∨
        (s.routes.promptDue = true ∧ s.routes.promptSet ≠ [])) →
      exec .roundRetry s = .next { s with routes := { s.routes with round := .due } }) ∧
    ((s.routes.promptDue = false ∨ s.routes.promptSet = []) →
      ∀ c, (c = .frameBuilding ∧ s.nextJob = some .frames ∨
          c = .roundRetry ∧ (∃ r, s.routes.round = .retryAt r ∧ r ≤ s.routes.clock) ∧
            { s with routes := { s.routes with round := .due } }.nextJob = some .frames) →
        (listed s.routes.cursor = [] → exec c s = .next { s with routes := { s.routes with round := .idle } }) ∧
        (listed s.routes.cursor ≠ [] →
        let rooms := listed s.routes.cursor
        let next := rooms.getLastD 0 + 1
        (s.takes (values rooms) = true → exec c s = .next { s.offer (values rooms) false false with
          routes := { s.routes with cursor := next, round := if listed next = [] then .idle else .due } }) ∧
        (s.takes (values rooms) = false → exec c s = .next { s with
          routes := { s.routes with round := .retryAt (s.routes.clock + 1000000) } })))

/-- SWEEP_TIMER_EXPIRY each second (R108), ROUND_DUE each 30 s (R113) and PROMPT_DUE 1 s after the set's first room (R115): a sweep
waits; a new round begins at room 1, or is over at once where there is no room to list; the prompt set is due. -/
def Claims.RouteTimersComeRound : Prop :=
  ∀ (s : State) (at_ : Nat), at_ ≤ s.routes.clock →
    (s.routes.nextSweep = some at_ → exec .sweepTimerExpiry s = .next { s with
      routes := { s.routes with sweepJob := true, nextSweep := some (at_ + 1000000) } }) ∧
    (s.routes.nextRound = some at_ → exec .roundDue s = .next { s with
      routes := { s.routes with
        cursor := 1, nextRound := some (at_ + 30000000)
        round := if (∃ e ∈ s.routes.entries, 1 ≤ e.room ∧ (e.any.cost ≠ .unknown ∨ e.level.cost ≠ .unknown)) then .due
          else .idle } }) ∧
    (s.routes.promptAt = some at_ → s.routes.promptSet ≠ [] → exec .promptDue s = .next { s with
      routes := { s.routes with promptAt := none, promptDue := true } })

/-- COMPOSER_ROUTE_READ (R101, R118, R145): the running pass takes the room's two bests and their glyphs, UNKNOWN for a room
without entry. LOCAL_PORT_ROUTE_READ with no Composer read waiting (R117): READ ROUTE is answered with the entry and the
candidates of every in-use link, or NOT_FOUND, and raises no notice. Either read is made whatever job waits or is in hand. By the
model's choice: log entries 18 (one read to a route part), 19 (the home candidate is formed against the kept vector), 28 (flag
bytes), 43 (the hops byte of an UNKNOWN or UNREACHABLE cost is 0) and 44 (an aged value is held until the sweep). -/
def Claims.RouteReadsReturnOneEntry : Prop :=
  (∀ (s : State) (p : Pass) (room : Nat), s.composer.pass = some p → p.wantsRoute s.settings = some room →
    let best (pick : RouteEntry → Best) : Best :=
      match s.routes.entry room with
      | some x => pick x
      | none => { cost := .unknown, link := none }
    exec .composerRouteRead s = .next { s with composer := { s.composer with pass := some { p with
      routes := p.routes ++ [
        { room := room, any := best (·.any), level := best (·.level), anyGlyph := s.settings.glyphOf (best (·.any)).link,
          levelGlyph := s.settings.glyphOf (best (·.level)).link }] } } }) ∧
  (∀ (s : State) (room : Nat), s.port.inHand = some (.readRoute room) → s.composerWantsRoute = none →
    (s.routes.entry room = none → exec .localPortRouteRead s = .next (s.finishes [0x0B, 0x07])) ∧
    (∀ x, s.routes.entry room = some x → exec .localPortRouteRead s = .next (s.finishes (
      [0x00, 0x07] ++ be16 x.room ++ [if x.pinned then 0x01 else 0x00] ++ be16 x.changeCount ++ encodeBest x.any
        ++ encodeBest x.level
        ++ (if s.settings.homeRoom ≠ 0 ∧ x.room = s.settings.homeRoom then
              encodeCost (if s.routes.kept.getLsbD s.settings.zone = true then .closed 0 else .finite 0 0) else [])
        ++ [byte s.settings.links.length]
        ++ s.settings.links.flatMap fun k => [byte k.index]
            ++ encodeCost (candidate s.settings s.routes.kept false k ((x.storedFor k.index).map (·.any))).cost
            ++ encodeCost (candidate s.settings s.routes.kept true k ((x.storedFor k.index).map (·.level))).cost))))

/-- SWEEP_TIMER_EXPIRY, ROUND_DUE, PROMPT_DUE, COMPOSER_ROUTE_READ and LOCAL_PORT_ROUTE_READ. -/
def Obligations.RouteTimersAndReads : Prop :=
  Claims.RouteTimersComeRound ∧ Claims.RouteReadsReturnOneEntry

/-- R99, R101, R115, R138: over every step the Route Table holds at most 256 entries, each room once, in ascending order, the prompt set
and the pin sets hold each room once, in ascending order, and a job in hand has entry operations left. -/
def Obligations.RouteTableBoundIsKept : Prop :=
  ∀ s t : State, RoutesOk s → step s = .next t → RoutesOk t

/-! ## Zone conditions (chapter 7) -/

/-- CONDITION_HANDOVER (R120 to R123, R127): a known source's contribution is replaced; a new one takes a free place, or of a full list
the place of the oldest zero contribution, or is merged into the spill record with CONDITION_SPILL. The aggregates are formed again
and told. By the model's choice: log entries 10 (the list stands in order of times last heard), 34 (the time last heard of frames
handled within one µs) and 37 (a source outside 1..4000). -/
def Claims.ConditionFrameIsPlaced : Prop :=
  ∀ (s : State) (f : InFrame) (rest : List InFrame) (closed notice : ZoneVec) (heard : Nat), s.inbound = f :: rest →
    f.body = .condition closed notice → HearingOf s.zones heard →
    let cs := s.zones.contributions
    let new : Contribution := { source := f.source, closed := closed, notice := notice, heard := heard }
    let t : State := { s with inbound := rest }
    ((∃ c ∈ cs, c.source = f.source) → exec .conditionHandover s = .next (t.withZones { s.zones with
      contributions := (cs.filter fun c => decide (c.source ≠ f.source)) ++ [new] })) ∧
    ((∀ c ∈ cs, c.source ≠ f.source) →
      (cs.length < 16 → exec .conditionHandover s = .next (t.withZones { s.zones with contributions := cs ++ [new] })) ∧
      (∀ older z newer last, 16 ≤ cs.length → cs = older ++ z :: newer → z.closed = 0 → z.notice = 0 →
        HearingOf { s.zones with contributions := older ++ newer } last →
        (∀ c ∈ older, ¬(c.closed = 0 ∧ c.notice = 0)) → (∀ c ∈ older ++ newer, c.source ≠ z.source) →
        exec .conditionHandover s =
          .next (t.withZones { s.zones with contributions := older ++ newer ++ [{ new with heard := last }] })) ∧
      (16 ≤ cs.length → (∀ c ∈ cs, ¬(c.closed = 0 ∧ c.notice = 0)) →
        exec .conditionHandover s = .next ((t.raise .conditionSpill).withZones { s.zones with
          spillClosed := s.zones.spillClosed ||| closed, spillNotice := s.zones.spillNotice ||| notice
          spillAt := some s.zones.clock })))

/-- R110, R127: forming the aggregates tells the Route Engine of a change of CLOSED, which makes a condition recomputation wait where it
concerns the own zone or a neighbour zone, and the Composer once of a change of either; an event that leaves both as they were
tells neither. -/
def Claims.AggregatesAreFormedAndTold : Prop :=
  ∀ (s : State) (z : ConditionList),
    let closed := z.contributions.foldl (fun v c => v ||| c.closed) (z.spillClosed ||| z.ownClosed)
    let notice := z.contributions.foldl (fun v c => v ||| c.notice) (z.spillNotice ||| z.ownNotice)
    let concerns : Prop := closed.getLsbD s.settings.zone ≠ s.routes.kept.getLsbD s.settings.zone ∨
      ∃ k ∈ s.settings.links, closed.getLsbD k.zone ≠ s.routes.kept.getLsbD k.zone
    let t := s.withZones z
    t = { s with zones := t.zones, routes := t.routes, composer := t.composer } ∧
    t.zones = { z with aggClosed := closed, aggNotice := notice } ∧
    (closed = s.zones.aggClosed → t.routes = s.routes) ∧
    (closed ≠ s.zones.aggClosed → concerns → t.routes = { s.routes with conditionJob := true }) ∧
    (closed ≠ s.zones.aggClosed → ¬concerns → t.routes = s.routes) ∧
    (closed = s.zones.aggClosed → notice = s.zones.aggNotice → t.composer = s.composer) ∧
    (¬(closed = s.zones.aggClosed ∧ notice = s.zones.aggNotice) → t.composer =
      s.composer.invalidateIf (s.composer.hitByZones s.settings closed notice)
        { s.passNow with closed := closed, notice := notice })

/-- CONDITION_HANDOVER (R120 to R123, R127). -/
def Obligations.ConditionFramesAreHandled : Prop :=
  Claims.ConditionFrameIsPlaced ∧ Claims.AggregatesAreFormedAndTold

/-- CONTRIBUTION_EXPIRY and SPILL_CLEAR 30 s after the last hearing or merge (R123, R124), and OWN_FRAME_RETRY 1 s after a refusal and
OWN_FRAME_RESEND at 10 s (R126), which offer the own frame. -/
def Claims.ZoneTimersComeRound : Prop :=
  ∀ s : State,
    (∀ older c newer, s.zones.contributions = older ++ c :: newer → (∀ x ∈ older ++ newer, x.source ≠ c.source) →
      c.heard + 30000000 ≤ s.zones.clock →
      exec (.contributionExpiry c.source) s =
        .next (s.withZones { s.zones with contributions := older ++ newer })) ∧
    (∀ m, s.zones.spillAt = some m → m + 30000000 ≤ s.zones.clock → exec .spillClear s =
      .next (s.withZones { s.zones with spillClosed := 0, spillNotice := 0, spillAt := none })) ∧
    (∀ c r, (c = .ownFrameRetry ∧ s.zones.ownPending = true ∧ s.zones.retryAt = some r ∨
        c = .ownFrameResend ∧ s.zones.resendAt = some r) → r ≤ s.zones.clock →
      let own : Body := .condition s.zones.ownClosed s.zones.ownNotice
      (s.takes own = true → exec c s = .next { s.offer own false false with
        zones := { s.zones with
          ownPending := false, retryAt := none
          resendAt := if s.zones.ownClosed = 0 ∧ s.zones.ownNotice = 0 then none
            else some (s.zones.clock + 10000000) } }) ∧
      (s.takes own = false → exec c s = .next { s with
        zones := { s.zones with
          ownPending := true, resendAt := none, retryAt := some (s.zones.clock + 1000000) } }))

/-- POST_ZONES in RUN (R125 to R127): the own vectors are replaced, the aggregates formed and told, the own frame offered and its
schedule set by the outcome, and the answer is OK. By the model's choice: log entry 40 (a retry counts from the latest refusal). -/
def Claims.PostZonesDeclares : Prop :=
  ∀ (s : State) (c3 c2 c1 c0 n3 n2 n1 n0 : Byte) (extra : List Byte), PortReady .run s →
    let closed : ZoneVec := c3 ++ c2 ++ c1 ++ c0
    let notice : ZoneVec := n3 ++ n2 ++ n1 ++ n0
    let own : Body := .condition closed notice
    let t := s.withZones { s.zones with ownClosed := closed, ownNotice := notice }
    let c := Instr.postZones (c3 :: c2 :: c1 :: c0 :: n3 :: n2 :: n1 :: n0 :: extra)
    (t.takes own = true → exec c s = .next ({ t.offer own false false with
      zones := { t.zones with
        ownPending := false, retryAt := none
        resendAt := if closed = 0 ∧ notice = 0 then none else some (s.zones.clock + 10000000) } }.responds
          [0x00, 0x0A])) ∧
    (t.takes own = false → exec c s = .next ({ t with
      zones := { t.zones with
        ownPending := true, resendAt := none, retryAt := some (s.zones.clock + 1000000) } }.responds [0x00, 0x0A]))

/-- CONTRIBUTION_EXPIRY, SPILL_CLEAR, OWN_FRAME_RETRY, OWN_FRAME_RESEND and POST_ZONES. -/
def Obligations.ZoneTimersAndPosts : Prop :=
  Claims.ZoneTimersComeRound ∧ Claims.PostZonesDeclares

/-- R120, R123, R127: over every step the Condition List holds at most 16 contributions of different sources, no two with one time last
heard, a clear spill record is empty, and each aggregated vector equals the OR of its inputs. By the model's choice: log entry 34
(how times last heard are kept apart). -/
def Obligations.AggregatesEqualTheOr : Prop :=
  ∀ s t : State, ZonesOk s.zones → step s = .next t → ZonesOk t.zones

/-! ## Plate composition (chapter 8) -/

/-- R141 to R144, R146: what is an invalidating event. A session report whose key the cached plate shows, or which concerns the home
room, a directory room, or, PLENARY, a directory section, before or after; a route change report for a room that the cached or the
running pass has read; vectors whose own-zone bits differ from those of the cached plate, or from those that a running pass took at its
start; a minute event before the cached plate's pass moment, where it has a valid-until time. Several reports come one after another. -/
def Claims.ReportsInvalidateWhatTheyMeet : Prop :=
  ∀ (st : Settings) (p : Pass) (c : Composer),
    let concerns (side : Option (List Nat × Bool)) : Prop := ∃ rooms plenary, side = some (rooms, plenary) ∧
      ((st.homeRoom ≠ 0 ∧ st.homeRoom ∈ rooms) ∨ (∃ m ∈ rooms, m ∈ st.directory) ∨
        (plenary = true ∧ st.directory ≠ []))
    let bits (closed notice : ZoneVec) : Bool × Bool := (closed.getLsbD st.zone, notice.getLsbD st.zone)
    (∀ r, c.hitBySession st r = true ↔
      (∃ k, c.cache = some k ∧ r.key ∈ k.keys) ∨ concerns r.before ∨ concerns r.after) ∧
    (c.onSessions st p [] = c ∧ ∀ r rs, c.onSessions st p (r :: rs) =
      (if c.hitBySession st r then c.invalidate p else c).onSessions st p rs) ∧
    (∀ room, c.hitByRoute room = true ↔
      (∃ k, c.cache = some k ∧ room ∈ k.rooms) ∨ ∃ q, c.pass = some q ∧ ∃ v ∈ q.routes, v.room = room) ∧
    (c.onRoutes p [] = c ∧
      (∀ room any level rs, c.onRoutes p (.changed room any level :: rs) =
        (if c.hitByRoute room then c.invalidate p else c).onRoutes p rs) ∧
      ∀ room rs, c.onRoutes p (.removed room :: rs) =
        (if c.hitByRoute room then c.invalidate p else c).onRoutes p rs) ∧
    (∀ closed notice, c.hitByZones st closed notice = true ↔
      (∃ k b, c.cache = some k ∧ k.zoneBits = some b ∧ b ≠ bits closed notice) ∨
        ∃ q, c.pass = some q ∧ bits q.closed q.notice ≠ bits closed notice) ∧
    (∀ now : Stamp, c.hitByMinute now = true ↔ ∃ k v, c.cache = some k ∧ k.validUntil = some v ∧
      (dayDiff now.day k.passMoment.day < 0 ∨
        (dayDiff now.day k.passMoment.day = 0 ∧ now.ms / 60000 < k.passMoment.ms / 60000)))

/-- R143, R144, R146: what an event of the Time Unit brings the Composer, each an invalidating event: a changed reading at or past the
cached plate's valid-until time, the minute event, the report. By the model's choice: log entry 13 (one valid-until time invalidates
once). -/
def Claims.TimeEventsInvalidateInTurn : Prop :=
  ∀ (p : Pass) (c : Composer) (minute told : Bool),
    let reached (k : Cache) : Bool := k.validUntil.any p.moment.atOrPast
    let marked (c : Composer) : Composer := { c with cache := c.cache.map fun k =>
      { k with validUntilReached := k.validUntilReached || reached k } }
    let rest (c : Composer) : Composer :=
      let d := if minute = true ∧ c.hitByMinute p.moment = true then c.invalidate p else c
      if told then d.invalidate p else d
    c.onTime false minute told p = rest c ∧
    ((∀ k, c.cache = some k → k.validUntilReached = true ∨ reached k = false) →
      c.onTime true minute told p = rest (marked c)) ∧
    (∀ k, c.cache = some k → k.validUntilReached = false → reached k = true →
      c.onTime true minute told p = rest (marked (c.invalidate p)))

/-- R145, R146: an invalidating event begins a pass in VALID; in COMPOSING it abandons the pass, counts and begins a new one, the
third time in FINAL_PASS; in FINAL_PASS it sets the late mark; in IDLE and FIXED it does nothing. VALID_UNTIL_REACHED, once the
counter stands at or past the cached plate's valid-until time, is such an event (R144). By the model's choice: log entry 13 (one
invalidation to one valid-until time). -/
def Claims.InvalidationFollowsTheComposerState : Prop :=
  (∀ (c : Composer) (p : Pass),
    (c.st = .valid → c.invalidate p = { c with st := .composing, pass := some p }) ∧
    (c.st = .composing → c.discard < 2 → c.invalidate p = { c with discard := c.discard + 1, pass := some p }) ∧
    (c.st = .composing → 2 ≤ c.discard → c.invalidate p = { c with st := .finalPass, discard := 3, pass := some p }) ∧
    (c.st = .finalPass → c.invalidate p = { c with late := true }) ∧
    (c.st = .idle ∨ c.st = .fixed → c.invalidate p = c)) ∧
  (∀ (s : State) (k : Cache) (v : Stamp), s.running = true → s.composer.cache = some k → k.validUntil = some v →
    k.validUntilReached = false → s.time.stamp.atOrPast v = true →
    exec .validUntilReached s = .next { s with
      composer := { s.composer with cache := some { k with validUntilReached := true } }.invalidate s.passNow })

/-- R141 to R146: what invalidates, and what follows. -/
def Obligations.InvalidationFollowsTheState : Prop :=
  Claims.ReportsInvalidateWhatTheyMeet ∧ Claims.TimeEventsInvalidateInTurn ∧ Claims.InvalidationFollowsTheComposerState

/-- PASS_END of a pass that has made its reads (R138, R139, R145, R147): overtaken in COMPOSING it is abandoned as invalidated;
otherwise it is kept: its plate and dependency record become the cache, a changed pin set is sent, a plate that differs from the one
last offered is offered to the Panel Port, the discard count returns to 0, and the state is VALID, or, with the late mark or
overtaken, COMPOSING with a new pass. That an overtaken cache does not invalidate a second time is the model's choice (log entry
13). -/
def Claims.KeptPassBecomesTheCache : Prop :=
  ∀ (s : State) (p : Pass), s.composer.pass = some p → p.complete s.settings = true →
    let st := s.settings
    let past := (p.validUntil st).any s.time.stamp.atOrPast
    let pins := (p.selection st).pins
    let plate := p.plate st
    let kept (c : ComposerState) (next : Option Pass) : State :=
      { s with
        routes := if pins = s.composer.pinSet then s.routes else { s.routes with pinJob := some pins }
        panel := if s.composer.offered = some plate then s.panel
          else s.panel.offer st.intervalTime s.pins.panelHold plate
        composer := { st := c, cache := some { p.cache st with validUntilReached := past }, offered := some plate,
                      pinSet := pins, discard := 0, late := false, pass := next } }
    (s.composer.st = .composing → past = true →
      exec .passEnd s = .next { s with composer := s.composer.invalidate s.passNow }) ∧
    (s.composer.late = false → past = false → exec .passEnd s = .next (kept .valid none)) ∧
    (s.composer.st = .finalPass → (s.composer.late = true ∨ past = true) →
      exec .passEnd s = .next (kept .composing (some s.passNow)))

/-- R129, R137: a plate's header. Without a section it holds the station id alone; with one its sections, the overlays of the own zone,
the room name and the home room; AWAITING_TIME and no line while time is unknown. -/
def Claims.PlateHeadFollowsTheStation : Prop :=
  ∀ (st : Settings) (p : Pass), ∃ x : RunPlate, p.plate st = .run x ∧ x.stationId = st.stationId ∧
    (st.homeRoom = 0 → st.directory = [] →
      x = { stationId := st.stationId, nameplate := false, directory := false, awaitingTime := false, areaClosed := false,
            attention := false, roomName := [], homeRoom := 0, combined := [], current := none, next := none, lines := [] }) ∧
    (st.homeRoom ≠ 0 ∨ st.directory ≠ [] →
      (x.nameplate = true ↔ st.homeRoom ≠ 0) ∧ (x.directory = true ↔ st.directory ≠ []) ∧ x.awaitingTime = !p.known ∧
      x.areaClosed = p.closed.getLsbD st.zone ∧ x.attention = p.notice.getLsbD st.zone ∧ x.roomName = st.roomName ∧
      x.homeRoom = st.homeRoom ∧
      (p.known = false → x.combined = [] ∧ x.current = none ∧ x.next = none ∧ x.lines = []))

/-- R130, R131, R133 to R136: the lines of a plate whose pass has made its reads: the combined-with rooms, the fields of each line, its
marker, the countdown of the next line in whole minutes rounded up, 1 to 60, and the route part of the moved-to room, or in the
directory of the first room. -/
def Claims.PlateLinesShowTheSelection : Prop :=
  ∀ (st : Settings) (p : Pass), p.known = true → (st.homeRoom ≠ 0 ∨ st.directory ≠ []) →
    let sel := p.selection st
    p.routes.map (·.room) = sel.partRooms →
    let marker (r : SessionRecord) : Marker :=
      match r.status with
      | .full => .full | .cancelled => .cancelled | .moved => .moved | _ => .none
    let moved (r : SessionRecord) : Option Nat := if r.status = .moved then r.movedTo else none
    let partOf (room : Option Nat) (part : Option RoutePart) : Prop :=
      (room = none → part = none) ∧ ∀ m, room = some m → ∃ v ∈ p.routes, v.room = m ∧ part = some v.part
    ∃ x : RunPlate, p.plate st = .run x ∧
      x.combined = (match sel.current with | some r => r.rooms.filter (fun m => decide (m ≠ st.homeRoom)) | none => []) ∧
      (sel.current = none → x.current = none) ∧
      (∀ r, sel.current = some r → ∃ part, partOf (moved r) part ∧ x.current = some
        { publisher := r.publisher, number := r.number, title := r.title, track := r.track, speaker := r.speaker
          startMin := r.startMin, endMin := r.endMin, marker := marker r, room := none, movedTo := moved r, part := part
          countdown := none }) ∧
      (sel.next = none → x.next = none) ∧
      (∀ r, sel.next = some r → ∃ part, partOf (moved r) part ∧
        let left := (r.startMin * 60000 - p.moment.ms + 59999) / 60000
        x.next = some
          { publisher := r.publisher, number := r.number, title := r.title, track := none, speaker := none
            startMin := r.startMin, endMin := 0, marker := marker r, room := none, movedTo := moved r, part := part
            countdown := if 1 ≤ left ∧ left ≤ 60 then some left else none }) ∧
      x.lines.length = sel.directory.length ∧
      (∀ (i : Nat) r, sel.directory[i]? = some r → ∃ part, partOf (some ((moved r).getD (r.rooms.headD 0))) part ∧
        x.lines[i]? = some (
          { publisher := r.publisher, number := r.number, title := r.title, track := none, speaker := none
            startMin := r.startMin, endMin := r.endMin, marker := marker r, room := r.rooms.head?, movedTo := moved r
            part := part, countdown := none } : SessionLine))

/-- R138, R139: the pin set of a plate, each room once in ascending order: the moved-to rooms on it and the rooms of its PLENARY
sessions; and the dependency record: the keys shown, the rooms read, the own zone's bits, the pass moment and the valid-until time. -/
def Claims.PinsAndDependenciesFollowThePlate : Prop :=
  ∀ (st : Settings) (p : Pass),
    let sel := p.selection st
    let shown (r : SessionRecord) : Prop := sel.current = some r ∨ sel.next = some r ∨ r ∈ sel.directory
    let k := p.cache st
    sel.pins.Pairwise (· < ·) ∧
    (∀ m, m ∈ sel.pins ↔ ∃ r, shown r ∧ ((r.status = .moved ∧ r.movedTo = some m) ∨ (r.plenary = true ∧ m ∈ r.rooms))) ∧
    k.plate = p.plate st ∧ (∀ key, key ∈ k.keys ↔ ∃ r, shown r ∧ key = (r.publisher, r.number)) ∧
    (∀ m, m ∈ k.rooms ↔ ∃ v ∈ p.routes, v.room = m) ∧
    k.zoneBits = (if st.homeRoom ≠ 0 ∨ st.directory ≠ [] then
      some (p.closed.getLsbD st.zone, p.notice.getLsbD st.zone) else none) ∧
    k.passMoment = p.moment ∧ k.validUntil = p.validUntil st

/-- PASS_END, and the plate, the pin set and the dependency record it keeps. -/
def Obligations.PassEndKeepsOrAbandons : Prop :=
  Claims.KeptPassBecomesTheCache ∧ Claims.PlateHeadFollowsTheStation ∧ Claims.PlateLinesShowTheSelection ∧
    Claims.PinsAndDependenciesFollowThePlate

/-- R132 to R136: with known time the current line is a session of today in nameplate scope that has begun and not ended, of these the
one that began last, and among those the greatest key; the next line is the one that begins first; the directory lists at most eight
sessions in directory scope that are current or begin within the look-ahead, in order of start, lowest room and key, and of more than
eight the first eight. No tombstone is shown. -/
def Claims.SelectionFollowsTheRules : Prop :=
  ∀ (st : Settings) (p : Pass), p.reads st = true →
    let now := p.moment.ms
    let held (r : SessionRecord) : Prop :=
      (∃ v, some v ∈ p.slots ∧ v.record = r) ∧ r.status ≠ .withdrawn ∧ r.day = p.moment.day
    let home (r : SessionRecord) : Prop := st.homeRoom ≠ 0 ∧ st.homeRoom ∈ r.rooms
    let begun (r : SessionRecord) : Prop := r.startMin * 60000 ≤ now ∧ now < r.endMin * 60000
    let ahead (r : SessionRecord) : Prop := now < r.startMin * 60000
    let listed (r : SessionRecord) : Prop :=
      st.directory ≠ [] ∧ (r.plenary = true ∨ ∃ m ∈ r.rooms, m ∈ st.directory) ∧
        (begun r ∨ (ahead r ∧ r.startMin * 60000 ≤ now + st.lookAhead * 60000))
    let above (x y : SessionRecord) : Prop :=
      y.publisher < x.publisher ∨ (x.publisher = y.publisher ∧ y.number < x.number)
    let low (r : SessionRecord) : Nat := r.rooms.min?.getD 0
    let precedes (x y : SessionRecord) : Prop := x.startMin < y.startMin ∨ (x.startMin = y.startMin ∧
      (low x < low y ∨ (low x = low y ∧ above y x)))
    let x := p.selection st
    (∀ r, x.current = some r → held r ∧ home r ∧ begun r ∧
      ∀ q, held q → home q → begun q → q.startMin ≤ r.startMin ∧ (q.startMin = r.startMin → ¬above q r)) ∧
    (x.current = none → ∀ q, held q → home q → ¬begun q) ∧
    (∀ r, x.next = some r → held r ∧ home r ∧ ahead r ∧
      ∀ q, held q → home q → ahead q → r.startMin ≤ q.startMin ∧ (q.startMin = r.startMin → ¬above q r)) ∧
    (x.next = none → ∀ q, held q → home q → ¬ahead q) ∧
    (x.directory.length ≤ 8 ∧ (∀ r ∈ x.directory, held r ∧ listed r) ∧
      x.directory.Pairwise (fun a b => ¬precedes b a) ∧
      (∀ q, held q → listed q → q ∉ x.directory → x.directory.length = 8 ∧ ∀ r ∈ x.directory, ¬precedes q r))

/-- R140: a pass that makes reads forms a valid-until time: of the moments at which the plate may read otherwise the earliest after its
own. These are the next minute boundary while the next line has a countdown, or else the moment 60 min before its start; the starts
and ends of the sessions of today in scope; the moment the look-ahead before the start of a session of the directory that lies beyond
it; and midnight. -/
def Claims.ValidUntilIsTheNextChange : Prop :=
  ∀ (st : Settings) (p : Pass), p.reads st = true → p.moment.day < 256 → p.moment.ms < 86400000 →
    let now := p.moment.ms
    let held (r : SessionRecord) : Prop :=
      (∃ v, some v ∈ p.slots ∧ v.record = r) ∧ r.status ≠ .withdrawn ∧ r.day = p.moment.day
    let home (r : SessionRecord) : Prop := st.homeRoom ≠ 0 ∧ st.homeRoom ∈ r.rooms
    let directory (r : SessionRecord) : Prop := r.plenary = true ∨ ∃ m ∈ r.rooms, m ∈ st.directory
    let moment (m : Nat) : Prop :=
      (∃ r, (p.selection st).next = some r ∧
        ((r.startMin * 60000 ≤ now + 3600000 ∧ m = (now / 60000 + 1) * 60000) ∨
          (now + 3600000 < r.startMin * 60000 ∧ m + 3600000 = r.startMin * 60000))) ∨
      (∃ r, held r ∧ (home r ∨ directory r) ∧ (m = r.startMin * 60000 ∨ m = r.endMin * 60000)) ∨
      (∃ r, held r ∧ directory r ∧ now + st.lookAhead * 60000 < r.startMin * 60000 ∧
        m + st.lookAhead * 60000 = r.startMin * 60000) ∨
      m = 86400000
    ∃ m, moment m ∧ now < m ∧ (∀ k, moment k → now < k → m ≤ k) ∧
      p.validUntil st = some (if m = 86400000 then { day := (p.moment.day + 1) % 256, ms := 0 }
        else { day := p.moment.day, ms := m })

/-- R132 to R136 and R140: the lines of a plate, and how long they stand. -/
def Obligations.SelectionAndValidUntil : Prop :=
  Claims.SelectionFollowsTheRules ∧ Claims.ValidUntilIsTheNextChange

/-- R139, R146, R147: over every step a pass runs in COMPOSING and FINAL_PASS alone, VALID holds a plate, the discard count is at most
3 and the late mark stands in FINAL_PASS alone. -/
def Claims.ComposerInvariantIsKept : Prop :=
  ∀ s t : State, ComposerOk s → step s = .next t → ComposerOk t

/-! ## Panel Port (chapter 9) -/

/-- R151, R152, R157: a plate waiting in IDLE with PANEL_HOLD low and the panel interval passed goes into delivery with the next attempt
sequence, at PANEL_INTERVAL_EXPIRY, at PANEL_HOLD_FALL, and at the offer itself; while PANEL_HOLD is high, or before the interval has
passed, none starts. An offer in any other state only takes or replaces the place of the slot, and a fall of PANEL_HOLD in a state other
than IDLE and FAULT, with nothing in the slot, or in FAULT with no attempt due, starts nothing. PANEL_HOLD_RISE stops none, in whatever state the panel is: it changes
nothing but the pin. -/
def Obligations.DeliveryStartsWhenAllowed : Prop :=
  (∀ s : State, exec .panelHoldRise s = .next { s with pins := { s.pins with panelHold := true } }) ∧
  (∀ (p : PanelPort) (limit : Nat) (hold : Bool) (plate : Plate), p.st ≠ .idle →
    p.offer limit hold plate = { p with slot := some plate }) ∧
  (∀ s : State, (s.panel.st = .idle → s.panel.slot = none) →
    (s.panel.st = .fault → s.panel.slot = none ∨ s.panel.faultDue = false) →
    exec .panelHoldFall s = .next { s with pins := { s.pins with panelHold := false } }) ∧
  ∀ (s : State) (plate : Plate), s.panel.st = .idle →
    let p := s.panel
    let started : PanelPort :=
      { p with
        slot := none, delivery := some plate, attemptSeq := (p.lastAck + 1) % 65536, retry := false, st := .sending
        clocked := some 0 }
    let passed : Prop := ∀ t, p.interval = some t → s.settings.panelInterval * 1000000 ≤ t
    (p.slot = some plate → ∀ t, p.interval = some t → s.settings.panelInterval * 1000000 ≤ t →
      exec .panelIntervalExpiry s = .next { s with panel := if s.pins.panelHold then p else started }) ∧
    (p.slot = some plate → passed →
      exec .panelHoldFall s = .next { s with pins := { s.pins with panelHold := false }, panel := started }) ∧
    (¬passed → exec .panelHoldFall s = .next { s with pins := { s.pins with panelHold := false } }) ∧
    (¬passed → ∀ hold, p.offer s.settings.intervalTime hold plate = { p with slot := some plate }) ∧
    (passed → p.offer s.settings.intervalTime false plate = started) ∧
    p.offer s.settings.intervalTime true plate = { p with slot := some plate }

/-- PLATE_CLOCKED_OUT once every bit has taken its 10 µs (R153, R156, R185), and PANEL_ACK while an acknowledge is awaited (R153,
R154, R156, R179): the attempt sequence becomes the last acknowledged, the delivered flag is set, and the panel refreshes; where
PANEL_BUSY is low the refresh is complete at once, as it is at PANEL_BUSY_FALL, and the interval starts. At any other time the edge of
PANEL_ACK is disregarded; PANEL_BUSY, found low with it while the panel refreshes, completes the refresh. By the model's choice: log
entry 16 (the level PANEL_ACK carries). -/
def Obligations.AcknowledgeLeadsToTheRefresh : Prop :=
  ∀ s : State, 1 ≤ s.settings.panelInterval →
    let p := s.panel
    let done (q : PanelPort) : PanelPort :=
      { q with delivery := none, busyTimer := none, interval := some 0, st := .idle, phase := none }
    let acked : PanelPort :=
      { p with
        lastAck := p.attemptSeq, ackTimer := none, busyTimer := some 0
        st := if p.st = .fault then .fault else .refreshing
        phase := if p.st = .fault then some .refreshing else p.phase }
    (∀ plate t, p.delivery = some plate → p.clocked = some t → 80 * (encodePlate 0 plate).length ≤ t →
      (p.st = .sending → exec .plateClockedOut s = .next { s with
        panel := { p with st := .awaitAck, clocked := none, ackTimer := some 0 } }) ∧
      (p.st = .fault → p.phase = some .sending → exec .plateClockedOut s = .next { s with
        panel := { p with phase := some .awaitAck, clocked := none, ackTimer := some 0 } })) ∧
    (∀ busy, (p.st = .awaitAck ∨ (p.st = .fault ∧ p.phase = some .awaitAck)) →
      exec (.panelAck busy) s = .next { s with
        pins := { s.pins with panelBusy := busy }, panel := if busy then acked else done acked
        port := { s.port with delivered := true } }) ∧
    (∀ busy, p.isAwaiting = false → p.isRefreshing = false →
      exec (.panelAck busy) s = .next { s with pins := { s.pins with panelBusy := busy } }) ∧
    (∀ busy, (p.st = .refreshing ∨ (p.st = .fault ∧ p.phase = some .refreshing)) →
      exec (.panelAck busy) s = .next { s with
        pins := { s.pins with panelBusy := busy }, panel := if busy then p else done p }) ∧
    ((p.st = .refreshing ∨ (p.st = .fault ∧ p.phase = some .refreshing)) → exec .panelBusyFall s = .next { s with
      pins := { s.pins with panelBusy := false }, panel := done p }) ∧
    (p.isRefreshing = false → exec .panelBusyFall s = .next { s with pins := { s.pins with panelBusy := false } })

/-- ACK_TIMEOUT at 500 ms (R153, R155, R156): the first of a delivery sends the same plate again with the same sequence, the second
enters FAULT; BUSY_TIMEOUT at 10 s with PANEL_BUSY high enters FAULT (R154, R155). On entering FAULT the plate goes back into an
empty slot, the fault timer starts and PANEL_FAULT is raised; a fault attempt that fails raises nothing and waits another 30 s.
FAULT_TIMER_EXPIRY at 30 s, with PANEL_HOLD low, starts an attempt with the slot's plate; with it high the attempt waits for
PANEL_HOLD_FALL. -/
def Obligations.PanelFaultsAndTriesAgain : Prop :=
  ∀ s : State,
    let p := s.panel
    let back := if p.slot.isSome then p.slot else p.delivery
    let fault : State :=
      { s with
        panel := { p with
          slot := back, delivery := none, retry := false, interval := none, ackTimer := none, busyTimer := none
          faultTimer := some 0, faultDue := false, phase := none, st := .fault }
        port := { s.port with notices := s.port.notices ||| 0x8000#16 } }
    let failed : State :=
      { s with panel := { p with
          slot := back, delivery := none, ackTimer := none, busyTimer := none, faultTimer := some 0, faultDue := false
          phase := none } }
    let attempt (plate : Plate) : PanelPort :=
      { p with
        slot := none, delivery := some plate, attemptSeq := (p.lastAck + 1) % 65536, phase := some .sending
        clocked := some 0, faultTimer := none, faultDue := false }
    (∀ t, p.ackTimer = some t → 500000 ≤ t →
      (p.st = .awaitAck → p.retry = false → exec .ackTimeout s = .next { s with
        panel := { p with retry := true, st := .sending, ackTimer := none, clocked := some 0 } }) ∧
      (p.st = .awaitAck → p.retry = true → exec .ackTimeout s = .next fault) ∧
      (p.st = .fault → p.phase = some .awaitAck → exec .ackTimeout s = .next failed)) ∧
    (∀ t, p.busyTimer = some t → 10000000 ≤ t → s.pins.panelBusy = true →
      (p.st = .refreshing → exec .busyTimeout s = .next fault) ∧
      (p.st = .fault → p.phase = some .refreshing → exec .busyTimeout s = .next failed)) ∧
    (∀ t plate, p.st = .fault → p.slot = some plate → p.faultTimer = some t → 30000000 ≤ t →
      exec .faultTimerExpiry s = .next { s with
        panel := if s.pins.panelHold then { p with faultTimer := none, faultDue := true } else attempt plate }) ∧
    (∀ plate, p.st = .fault → p.slot = some plate → p.faultDue = true →
      exec .panelHoldFall s = .next { s with pins := { s.pins with panelHold := false }, panel := attempt plate })

/-- R150, R152, R156, R158: over every step a plate being sent or awaiting its acknowledge carries the last acknowledged sequence + 1
mod 65,536, a panel that is refreshing has acknowledged it, and a panel that is ABSENT delivers nothing and keeps 65,535. -/
def Claims.AttemptSequenceIsTheNext : Prop :=
  ∀ s t : State, PanelOk s → step s = .next t → PanelOk t

/-! ## Local Port (chapter 11) -/

/-- R172 to R174, R184: how a request taken is turned away, in order, with nothing changed but the response: not taken at all with
PORT_EN low; BUSY naming it while another is in hand; REFUSED_MODE in START; MALFORMED with too short a body; REFUSED_MODE in a
mode that does not allow it. By the model's choice: log entries 16 (the level a request carries) and 23 (PORT_EN before it is
sampled). -/
def Claims.RequestsTakenAreJudgedInOrder : Prop :=
  ∀ (c : Instr) (code : Byte) (s : State), requestCode c = some code →
    let t := s.sampled c
    (s.straps.portEn = false → exec c s = .next t) ∧
    (s.straps.portEn = true → s.port.inHand.isSome = true → exec c s = .next (t.responds [0x05, code])) ∧
    (s.straps.portEn = true → s.port.inHand = none →
      (s.mode = .start → exec c s = .next (t.responds [0x06, code])) ∧
      (s.mode ≠ .start → bodyShort c → exec c s = .next (t.responds [0x04, code])) ∧
      (s.mode ≠ .start → ¬bodyShort c → ¬allowedIn c s.mode → exec c s = .next (t.responds [0x06, code])))

/-- R172, R184: a transaction on the wires. SDO carries the response buffer's bytes and then 0x00, and is not driven with CS_N high or
PORT_EN low. SDI's bits come eight to a byte, the most significant first, a partial byte disregarded; the first byte is the request
code, the others the body; no byte, or the no-request code, takes no request. By the model's choice: log entries 1 (a request comes as
one command) and 41 (all bytes of SDO come from the response of one state). -/
def Claims.TransactionsCarryBytes : Prop :=
  (∀ (s : State) (csLow : Bool) (n : Nat),
    (s.straps.portEn = false ∨ csLow = false → s.sdo csLow n = none) ∧
    (s.straps.portEn = true → csLow = true → ∃ bytes, s.sdo csLow n = some bytes ∧ bytes.length = n ∧
      ∀ i, i < n → bytes[i]? = some (if h : i < s.port.response.length then s.port.response[i] else 0x00))) ∧
  (∀ (bytes : List Byte) (partial_ : List Bool), partial_.length < 8 →
    wholeBytes (bytes.flatMap (fun b => (List.range 8).map fun i => b.getMsbD i) ++ partial_) = bytes) ∧
  (∀ supply : Bool, transaction supply [] = none ∧ (∀ body, transaction supply (0x00 :: body) = none) ∧
    (∀ code body, 13 < code.toNat → transaction supply (code :: body) = some (.requestCodeNamesNoRequest code body)) ∧
    (∀ code body, 1 ≤ code.toNat → code.toNat ≤ 13 →
      ∃ c, transaction supply (code :: body) = some c ∧ requestCode c = some code ∧
        c ∈ [.readStatus body, .ackNotices body, .setAttentionEnables body, .clearAttentionEnables body, .postSession body,
          .readSessionByIndex body, .readSessionNextChanged body, .readRoute body, .readPlate body, .setTime body,
          .postZones body, .lineRestart body, .programWord body supply, .verifyWord body supply] ∧
        (c = .readSessionNextChanged body ↔ code = 0x06 ∧ body.head? = some 0xFF)))

/-- R172 to R174, R184: a transaction, and how its request is turned away. -/
def Obligations.RequestsAreTurnedAwayInOrder : Prop :=
  Claims.RequestsTakenAreJudgedInOrder ∧ Claims.TransactionsCarryBytes

/-- READ_STATUS in any mode but START (R58, R176): OK and the status block of 25 bytes, with no other change. By the
model's choice: log entry 42 (unnamed bits of the straps, the line states and the enables are 0). -/
def Claims.ReadStatusReports : Prop :=
  ∀ (s : State) (m : Mode) (body : List Byte), PortReady m s → m ≠ .start →
    ∃ block : List Byte, exec (.readStatus body) s = .next (s.responds ([0x00, 0x01] ++ block)) ∧ block.length = 25 ∧
      block =
        [match m with | .start => 0x00 | .program => 0x01 | .unassigned => 0x02 | .run => 0x03,
         match s.reason with | none => 0x00 | some .blank => 0x01 | some .checksum => 0x02 | some .badId => 0x03,
         byte ((if s.straps.lineRate then 1 else 0) + (if s.straps.listenOnly then 2 else 0)
          + (if s.straps.prog then 4 else 0) + (if s.straps.portEn then 8 else 0)),
         match s.time.sync with | .free => 0x00 | .joining => 0x01 | .locked => 0x02 | .coasting => 0x03,
         byte s.time.epoch, byte s.time.day] ++ be32 s.time.ms ++ be16 (s.time.trim % 65536).toNat
        ++ [byte (s.lineA.st.code + 4 * s.lineB.st.code), byte s.panel.st.code] ++ be16 s.panel.lastAck
        ++ be16 s.port.notices.toNat ++ be24 s.port.enables.toNat
        ++ [byte s.sessions.entries.length, byte s.sessions.changed.length] ++ be16 s.routes.entries.length

/-- ACK_NOTICES clears the named notices and answers the set that is left (R175, R178); SET_ and CLEAR_ATTENTION_ENABLES set or clear
the named enables, bits 18 to 23 disregarded, and answer the 18 as they then stand (R175, R179, R184). By the model's choice: log entry 42 (bits 18 to
23 of the answer are 0). -/
def Claims.NoticesAndEnablesAreAnswered : Prop :=
  ∀ (s : State) (h m l : Byte) (extra : List Byte), PortReady .run s →
    let notices := s.port.notices &&& ~~~(h ++ m)
    let named : BitVec 18 := BitVec.ofNat 18 (h.toNat * 65536 + m.toNat * 256 + l.toNat)
    exec (.ackNotices (h :: m :: extra)) s = .next { s with
      port := { s.port with notices := notices, response := [0x00, 0x02] ++ be16 notices.toNat } } ∧
    exec (.setAttentionEnables (h :: m :: l :: extra)) s = .next { s with
      port := { s.port with
        enables := s.port.enables ||| named
        response := [0x00, 0x03] ++ be24 (s.port.enables ||| named).toNat } } ∧
    exec (.clearAttentionEnables (h :: m :: l :: extra)) s = .next { s with
      port := { s.port with
        enables := s.port.enables &&& ~~~named
        response := [0x00, 0x04] ++ be24 (s.port.enables &&& ~~~named).toNat } }

/-- READ_PLATE in RUN (R175, R179, R184): the cached plate with its validity and the last acknowledged sequence, the plate's own
sequence sent as 0, and the delivered flag cleared; NOT_FOUND with the flag kept while the cache holds no plate. By the model's
choice: log entries 28 (the plate length) and 42 (unnamed bits of the parts byte and of a presence byte are 0). -/
def Claims.ReadPlateReturnsTheCache : Prop :=
  ∀ (s : State) (body : List Byte), PortReady .run s →
    (∀ k, s.composer.cache = some k → exec (.readPlate body) s = .next { s with
      port := { s.port with
        delivered := false
        response := [0x00, 0x08, if s.composer.st = .valid ∨ s.composer.st = .fixed then 0x01 else 0x00]
          ++ be16 s.panel.lastAck ++ be16 (encodePlate 0 k.plate).length ++ encodePlate 0 k.plate } }) ∧
    (s.composer.cache = none → exec (.readPlate body) s = .next (s.responds [0x0B, 0x08]))

/-- READ_STATUS and READ_PLATE. -/
def Obligations.StatusAndPlateAreRead : Prop :=
  Claims.ReadStatusReports ∧ Claims.ReadPlateReturnsTheCache

/-- POST_SESSION, READ_SESSION_BY_INDEX, READ_SESSION_NEXT_CHANGED and READ_ROUTE in RUN (R173, R177): the request goes into hand with a
BUSY response that names it, a post loading its record into the posting buffer; an index of 64..254, and a room of 0 or above 1023,
is MALFORMED at once. A code above 0x0D is MALFORMED in every mode but START (R174, R184). -/
def Obligations.RequestsThatTakeTimeGoIntoHand : Prop :=
  ∀ s : State,
    let hand (h : InHand) (code : Byte) : State :=
      { s with port := { s.port with response := [0x05, code], inHand := some h } }
    (PortReady .run s →
      (∀ record extra, record.length < 256 → exec (.postSession (byte record.length :: record ++ extra)) s =
        .next { hand .postSession 0x05 with sessions := { s.sessions with posting := some record } }) ∧
      (∀ i extra, i.toNat < 64 → exec (.readSessionByIndex (i :: extra)) s = .next (hand (.readSession i.toNat) 0x06)) ∧
      (∀ i extra, 64 ≤ i.toNat → i.toNat ≠ 255 →
        exec (.readSessionByIndex (i :: extra)) s = .next (s.responds [0x04, 0x06])) ∧
      (∀ extra, exec (.readSessionNextChanged (0xFF#8 :: extra)) s = .next (hand (.readSession 255) 0x06)) ∧
      (∀ (h l : Byte) extra, exec (.readRoute (h :: l :: extra)) s =
        .next (let room := h.toNat * 256 + l.toNat
          if 1 ≤ room ∧ room ≤ 1023 then hand (.readRoute room) 0x07 else s.responds [0x04, 0x07]))) ∧
    (∀ m code body, PortReady m s → m ≠ .start → 13 < code.toNat →
      exec (.requestCodeNamesNoRequest code body) s = .next (s.responds [0x04, code]))

/-- R180: ATTN is not driven with PORT_EN low; else it is high exactly while an enabled notice is set, or CHANGED_SESSIONS is enabled
and a changed mark is set, or PLATE_DELIVERED is enabled and the delivered flag is set. -/
def Claims.AttnFollowsItsConditions : Prop :=
  ∀ s : State,
    (s.straps.portEn = false → s.attn = none) ∧
    (s.straps.portEn = true → ∃ b, s.attn = some b ∧ (b = true ↔
      (∃ i, i < 16 ∧ s.port.notices.getLsbD i = true ∧ s.port.enables.getLsbD i = true) ∨
      (s.port.enables.getLsbD 16 = true ∧ s.sessions.changed ≠ []) ∨
      (s.port.enables.getLsbD 17 = true ∧ s.port.delivered = true)))

/-- ACK_NOTICES, SET_ATTENTION_ENABLES, CLEAR_ATTENTION_ENABLES, and ATTN. -/
def Obligations.NoticesEnablesAndAttention : Prop :=
  Claims.NoticesAndEnablesAreAnswered ∧ Claims.AttnFollowsItsConditions

/-- R169, R177: over every step the posting buffer holds a record exactly while POST SESSION is in hand, and a program cycle runs exactly
while PROGRAM WORD is. -/
def Claims.HandAndBuffersAgree : Prop :=
  ∀ s t : State, PortOk s → step s = .next t → PortOk t

/-- The Composer, the Panel Port and the Local Port over every step. -/
def Obligations.PlatePartsStayConsistent : Prop :=
  Claims.ComposerInvariantIsKept ∧ Claims.AttemptSequenceIsTheNext ∧ Claims.HandAndBuffersAgree
end

