-- ==== Sys2Proof/Laws/Lists.lean ====
section
/-!
SUPPORT. What the list operations of the machine can do: the pick of a best element, sorting by a precedence, room sets, and the
Route Table's placing of an entry.
-/

namespace Sys2Proof.Machine

/-! ## pickBest -/

/-- One step of the pick. -/
def pickStep {α : Type} (better : α → α → Bool) (acc : Option α) (x : α) : Option α :=
  match acc with
  | none => some x
  | some b => if better x b then some x else some b

/-- What the fold leaves: the start, or an element; none only where it began with none on an empty list. -/
theorem pickStep_foldl_mem {α : Type} (better : α → α → Bool) (l : List α) (acc : Option α) {x : α}
    (h : l.foldl (pickStep better) acc = some x) : x ∈ l ∨ acc = some x := by
  induction l generalizing acc with
  | nil => exact .inr h
  | cons a as ih =>
    rcases ih _ h with h | h
    · exact .inl (List.mem_cons_of_mem a h)
    · cases acc with
      | none => simp only [pickStep, Option.some.injEq] at h; simp [h]
      | some b =>
        simp only [pickStep] at h
        split at h <;> simp only [Option.some.injEq] at h <;> simp [h]

/-- A picked element is one of the list. -/
theorem pickBest_mem {α : Type} {better : α → α → Bool} {l : List α} {x : α} (h : pickBest better l = some x) : x ∈ l := by
  rcases pickStep_foldl_mem better l none h with h | h
  · exact h
  · cases h

/-- Something is picked of every list but the empty one. -/
theorem pickBest_eq_none {α : Type} {better : α → α → Bool} {l : List α} : pickBest better l = none ↔ l = [] := by
  constructor
  · intro h
    by_contra hl
    obtain ⟨a, as, rfl⟩ := List.exists_cons_of_ne_nil hl
    have : ∀ (l : List α) (b : α), ∃ c, l.foldl (pickStep better) (some b) = some c := by
      intro l
      induction l with
      | nil => exact fun b => ⟨b, rfl⟩
      | cons a as ih =>
        intro b
        by_cases hb : better a b = true
        · simpa [pickStep, hb] using ih a
        · simpa [pickStep, hb] using ih b
    obtain ⟨c, hc⟩ := this as a
    exact absurd (hc.symm.trans h) (by simp)
  · rintro rfl
    rfl

/-- For a strict weak order no element is better than the one picked. -/
theorem pickBest_best {α : Type} {better : α → α → Bool} {l : List α} {x : α}
    (asymm : ∀ a b, better a b = true → better b a = false)
    (negTrans : ∀ a b c, better a b = false → better b c = false → better a c = false)
    (h : pickBest better l = some x) : ∀ y ∈ l, better y x = false := by
  have irrefl : ∀ a, better a a = false := fun a => by
    cases ha : better a a with
    | false => rfl
    | true => simpa [ha] using asymm a a ha
  have key : ∀ (l : List α) (acc : Option α) (x : α), l.foldl (pickStep better) acc = some x →
      (∀ b, acc = some b → better b x = false) ∧ ∀ y ∈ l, better y x = false := by
    intro l
    induction l with
    | nil =>
      intro acc x h
      exact ⟨fun b hb => by rw [hb] at h; cases h; exact irrefl _, by simp⟩
    | cons a as ih =>
      intro acc x h
      obtain ⟨h1, h2⟩ := ih _ _ h
      cases acc with
      | none => exact ⟨by simp, by simpa using ⟨h1 a rfl, h2⟩⟩
      | some b =>
        by_cases hb : better a b = true
        · have ha := h1 a (by simp [pickStep, hb])
          exact ⟨fun c hc => by cases hc; exact negTrans _ a _ (asymm _ _ hb) ha, by simpa using ⟨ha, h2⟩⟩
        · have hx := h1 b (by simp [pickStep, hb])
          exact ⟨fun c hc => by cases hc; exact hx,
            by simpa using ⟨negTrans _ b _ (by simpa using hb) hx, h2⟩⟩
  exact (key l none x h).2

/-! ## Sorting -/

/-- Inserting adds the one element. -/
theorem insertBy_perm {α : Type} (precedes : α → α → Bool) (x : α) (l : List α) : (insertBy precedes x l).Perm (x :: l) := by
  induction l with
  | nil => exact .refl _
  | cons y ys ih =>
    by_cases h : precedes x y = true
    · simp [insertBy, h]
    · simpa [insertBy, h] using (List.Perm.cons y ih).trans (List.Perm.swap x y ys)

/-- Sorting keeps the elements. -/
theorem sortBy_perm {α : Type} (precedes : α → α → Bool) (l : List α) : (sortBy precedes l).Perm l := by
  induction l with
  | nil => exact .refl _
  | cons x xs ih => exact (insertBy_perm precedes x _).trans (ih.cons x)

@[simp] theorem mem_sortBy {α : Type} {precedes : α → α → Bool} {l : List α} {x : α} : x ∈ sortBy precedes l ↔ x ∈ l :=
  (sortBy_perm precedes l).mem_iff

@[simp] theorem length_sortBy {α : Type} (precedes : α → α → Bool) (l : List α) : (sortBy precedes l).length = l.length :=
  (sortBy_perm precedes l).length_eq

/-- A relation that holds from an element to those it precedes, and backwards where it does not, holds along the sorted list. -/
theorem sortBy_pairwise {α : Type} {precedes : α → α → Bool} (r : α → α → Prop) (trans : ∀ a b c, r a b → r b c → r a c)
    (fwd : ∀ a b, precedes a b = true → r a b) (back : ∀ a b, precedes a b = false → r b a) (l : List α) :
    (sortBy precedes l).Pairwise r := by
  have ins : ∀ (x : α) (l : List α), l.Pairwise r → (insertBy precedes x l).Pairwise r := by
    intro x l
    induction l with
    | nil => intro _; simp [insertBy]
    | cons y ys ih =>
      intro h
      rw [List.pairwise_cons] at h
      by_cases hp : precedes x y = true
      · simp only [insertBy, hp, if_true, List.pairwise_cons]
        exact ⟨fun z hz => by
          rcases List.mem_cons.1 hz with rfl | hz
          · exact fwd _ _ hp
          · exact trans _ y _ (fwd _ _ hp) (h.1 z hz), h⟩
      · simp only [insertBy, hp, Bool.false_eq_true, if_false, List.pairwise_cons]
        refine ⟨fun z hz => ?_, ih h.2⟩
        rcases List.mem_cons.1 ((insertBy_perm precedes x ys).mem_iff.1 hz) with rfl | hz
        · exact back _ _ (by simpa using hp)
        · exact h.1 z hz
  induction l with
  | nil => exact .nil
  | cons x xs ih => exact ins x _ ih

/-! ## Room sets -/

@[simp] theorem mem_joinRoom {r x : Nat} {l : List Nat} : x ∈ joinRoom r l ↔ x = r ∨ x ∈ l := by
  induction l with
  | nil => simp [joinRoom]
  | cons y ys ih =>
    by_cases h1 : r < y
    · simp [joinRoom, h1]
    · by_cases h2 : r = y
      · subst h2; simp [joinRoom]
      · simp only [joinRoom, h1, h2, if_false, List.mem_cons, ih]
        tauto

/-- A room set stays ascending. -/
theorem joinRoom_ascending {r : Nat} {l : List Nat} (h : l.Pairwise (· < ·)) : (joinRoom r l).Pairwise (· < ·) := by
  induction l with
  | nil => simp [joinRoom]
  | cons y ys ih =>
    rw [List.pairwise_cons] at h
    by_cases h1 : r < y
    · simp only [joinRoom, h1, if_true, List.pairwise_cons]
      exact ⟨fun z hz => by rcases List.mem_cons.1 hz with rfl | hz; exacts [h1, h1.trans (h.1 z hz)], h.1, h.2⟩
    · by_cases h2 : r = y
      · subst h2; simpa [joinRoom] using h
      · simp only [joinRoom, h1, h2, if_false, List.pairwise_cons]
        exact ⟨fun z hz => by rcases mem_joinRoom.1 hz with rfl | hz; exacts [by omega, h.1 z hz], ih h.2⟩

@[simp] theorem mem_roomSet {x : Nat} {l : List Nat} : x ∈ roomSet l ↔ x ∈ l := by
  induction l with
  | nil => simp [roomSet]
  | cons r rs ih => exact mem_joinRoom.trans (by rw [show List.foldr joinRoom [] rs = roomSet rs from rfl, ih, List.mem_cons])

/-! ## The Route Table's entries -/

/-- Placing an entry keeps every other room's entries and leaves no other entry of its room, in a table in room order. -/
theorem mem_putEntry {x y : RouteEntry} {l : List RouteEntry} (h : (l.map (·.room)).Pairwise (· < ·)) :
    y ∈ putEntry x l ↔ y = x ∨ (y ∈ l ∧ y.room ≠ x.room) := by
  induction l with
  | nil => simp [putEntry]
  | cons z zs ih =>
    rw [List.map_cons, List.pairwise_cons] at h
    have above : ∀ w ∈ zs, z.room < w.room := fun w hw => h.1 _ (List.mem_map_of_mem hw)
    by_cases h1 : x.room < z.room
    · simp only [putEntry, h1, if_true, List.mem_cons]
      constructor
      · rintro (rfl | rfl | hy)
        · exact .inl rfl
        · exact .inr ⟨.inl rfl, by omega⟩
        · exact .inr ⟨.inr hy, by have := above y hy; omega⟩
      · rintro (rfl | ⟨h, -⟩)
        · exact .inl rfl
        · exact .inr h
    · by_cases h2 : x.room = z.room
      · simp only [putEntry, h2, if_true, if_false, List.mem_cons, lt_irrefl]
        constructor
        · rintro (rfl | hy)
          · exact .inl rfl
          · exact .inr ⟨.inr hy, by have := above y hy; omega⟩
        · rintro (rfl | ⟨rfl | hy, hne⟩)
          · exact .inl rfl
          · exact absurd rfl hne
          · exact .inr hy
      · simp only [putEntry, h1, h2, if_false, List.mem_cons, ih h.2]
        constructor
        · rintro (rfl | rfl | ⟨hy, hne⟩)
          · exact .inr ⟨.inl rfl, fun h => h2 h.symm⟩
          · exact .inl rfl
          · exact .inr ⟨.inr hy, hne⟩
        · rintro (rfl | ⟨rfl | hy, hne⟩)
          · exact .inr (.inl rfl)
          · exact .inl rfl
          · exact .inr (.inr ⟨hy, hne⟩)

/-- The table stays in room order. -/
theorem putEntry_ascending {x : RouteEntry} {l : List RouteEntry} (h : (l.map (·.room)).Pairwise (· < ·)) :
    ((putEntry x l).map (·.room)).Pairwise (· < ·) := by
  induction l with
  | nil => simp [putEntry]
  | cons z zs ih =>
    have hz := h
    rw [List.map_cons, List.pairwise_cons] at hz
    by_cases h1 : x.room < z.room
    · simp only [putEntry, h1, if_true, List.map_cons, List.pairwise_cons]
      refine ⟨fun r hr => ?_, hz.1, hz.2⟩
      rcases List.mem_cons.1 hr with rfl | hr
      exacts [h1, h1.trans (hz.1 r hr)]
    · by_cases h2 : x.room = z.room
      · simp only [putEntry, h2, lt_irrefl, if_true, if_false, List.map_cons, List.pairwise_cons]
        exact hz
      · simp only [putEntry, h1, h2, if_false, List.map_cons, List.pairwise_cons]
        refine ⟨fun r hr => ?_, ih hz.2⟩
        obtain ⟨y, hy, rfl⟩ := List.mem_map.1 hr
        rcases (mem_putEntry hz.2).1 hy with rfl | ⟨hy, -⟩
        exacts [by omega, hz.1 _ (List.mem_map_of_mem hy)]

/-- A bit of an accumulated union is a bit of its start or of an element's. -/
theorem bits_foldl_or {α : Type} (f : α → BitVec 16) (l : List α) (m : BitVec 16) (i : Nat) :
    (l.foldl (fun m c => m ||| f c) m).getLsbD i = true ↔ m.getLsbD i = true ∨ ∃ c ∈ l, (f c).getLsbD i = true := by
  induction l generalizing m with
  | nil => simp
  | cons c l ih =>
    simp only [List.foldl_cons, ih, BitVec.getLsbD_or, Bool.or_eq_true, List.mem_cons, exists_eq_or_imp, or_assoc]

/-- A running maximum of successors lies at or above its start and above every element. -/
theorem foldl_max_succ {α : Type} (f : α → Nat) (l : List α) (n : Nat) :
    n ≤ l.foldl (fun t x => max t (f x + 1)) n ∧ ∀ x ∈ l, f x < l.foldl (fun t x => max t (f x + 1)) n := by
  induction l generalizing n with
  | nil => simp
  | cons a l ih =>
    obtain ⟨h1, h2⟩ := ih (max n (f a + 1))
    refine ⟨(Nat.le_max_left _ _).trans h1, fun x hx => ?_⟩
    rcases List.mem_cons.1 hx with rfl | hx
    · exact Nat.lt_of_lt_of_le (Nat.lt_succ_self _) ((Nat.le_max_right _ _).trans h1)
    · exact h2 x hx

/-- A running maximum of successors stays at its start where every element lies below it. -/
theorem foldl_max_succ_eq {α : Type} (f : α → Nat) (l : List α) (n : Nat) (h : ∀ x ∈ l, f x < n) :
    l.foldl (fun t x => max t (f x + 1)) n = n := by
  induction l with
  | nil => rfl
  | cons a l ih =>
    rw [List.foldl_cons, Nat.max_eq_left (h a (by simp))]
    exact ih fun x hx => h x (by simp [hx])

end Sys2Proof.Machine
end

