-- ==== Sys2Proof/Laws/State.lean ====
section
/-! SUPPORT. What each named update of the state does to each field, so that no later proof unfolds a record update. -/

namespace Sys2Proof.Machine

variable (s : State)

@[simp] theorem State.withQueue_mode (q : List TxFrame) : (s.withQueue q).mode = s.mode := rfl
@[simp] theorem State.withQueue_reason (q : List TxFrame) : (s.withQueue q).reason = s.reason := rfl
@[simp] theorem State.withQueue_straps (q : List TxFrame) : (s.withQueue q).straps = s.straps := rfl
@[simp] theorem State.withQueue_pins (q : List TxFrame) : (s.withQueue q).pins = s.pins := rfl
@[simp] theorem State.withQueue_otp (q : List TxFrame) : (s.withQueue q).otp = s.otp := rfl
@[simp] theorem State.withQueue_locked (q : List TxFrame) : (s.withQueue q).locked = s.locked := rfl
@[simp] theorem State.withQueue_cycle (q : List TxFrame) : (s.withQueue q).cycle = s.cycle := rfl
@[simp] theorem State.withQueue_settings (q : List TxFrame) : (s.withQueue q).settings = s.settings := rfl
@[simp] theorem State.withQueue_idField (q : List TxFrame) : (s.withQueue q).idField = s.idField := rfl
@[simp] theorem State.withQueue_lineA (q : List TxFrame) : (s.withQueue q).lineA = s.lineA := rfl
@[simp] theorem State.withQueue_lineB (q : List TxFrame) : (s.withQueue q).lineB = s.lineB := rfl
@[simp] theorem State.withQueue_txQueue (q : List TxFrame) : (s.withQueue q).txQueue = q := rfl
@[simp] theorem State.withQueue_ownSeq (q : List TxFrame) : (s.withQueue q).ownSeq = s.ownSeq := rfl
@[simp] theorem State.withQueue_dups (q : List TxFrame) : (s.withQueue q).dups = s.dups := rfl
@[simp] theorem State.withQueue_inbound (q : List TxFrame) : (s.withQueue q).inbound = s.inbound := rfl
@[simp] theorem State.withQueue_time (q : List TxFrame) : (s.withQueue q).time = s.time := rfl
@[simp] theorem State.withQueue_sessions (q : List TxFrame) : (s.withQueue q).sessions = s.sessions := rfl
@[simp] theorem State.withQueue_routes (q : List TxFrame) : (s.withQueue q).routes = s.routes := rfl
@[simp] theorem State.withQueue_zones (q : List TxFrame) : (s.withQueue q).zones = s.zones := rfl
@[simp] theorem State.withQueue_composer (q : List TxFrame) : (s.withQueue q).composer = s.composer := rfl
@[simp] theorem State.withQueue_panel (q : List TxFrame) : (s.withQueue q).panel = s.panel := rfl
@[simp] theorem State.withQueue_port (q : List TxFrame) : (s.withQueue q).port = s.port := rfl
@[simp] theorem State.withQueue_freeCount (q : List TxFrame) : (s.withQueue q).freeCount = s.freeCount := rfl
@[simp] theorem State.withQueue_pending (q : List TxFrame) : (s.withQueue q).pending = s.pending := rfl

@[simp] theorem State.raise_mode (n : Notice) : (s.raise n).mode = s.mode := rfl
@[simp] theorem State.raise_reason (n : Notice) : (s.raise n).reason = s.reason := rfl
@[simp] theorem State.raise_straps (n : Notice) : (s.raise n).straps = s.straps := rfl
@[simp] theorem State.raise_pins (n : Notice) : (s.raise n).pins = s.pins := rfl
@[simp] theorem State.raise_otp (n : Notice) : (s.raise n).otp = s.otp := rfl
@[simp] theorem State.raise_locked (n : Notice) : (s.raise n).locked = s.locked := rfl
@[simp] theorem State.raise_cycle (n : Notice) : (s.raise n).cycle = s.cycle := rfl
@[simp] theorem State.raise_settings (n : Notice) : (s.raise n).settings = s.settings := rfl
@[simp] theorem State.raise_idField (n : Notice) : (s.raise n).idField = s.idField := rfl
@[simp] theorem State.raise_lineA (n : Notice) : (s.raise n).lineA = s.lineA := rfl
@[simp] theorem State.raise_lineB (n : Notice) : (s.raise n).lineB = s.lineB := rfl
@[simp] theorem State.raise_txQueue (n : Notice) : (s.raise n).txQueue = s.txQueue := rfl
@[simp] theorem State.raise_ownSeq (n : Notice) : (s.raise n).ownSeq = s.ownSeq := rfl
@[simp] theorem State.raise_dups (n : Notice) : (s.raise n).dups = s.dups := rfl
@[simp] theorem State.raise_inbound (n : Notice) : (s.raise n).inbound = s.inbound := rfl
@[simp] theorem State.raise_time (n : Notice) : (s.raise n).time = s.time := rfl
@[simp] theorem State.raise_sessions (n : Notice) : (s.raise n).sessions = s.sessions := rfl
@[simp] theorem State.raise_routes (n : Notice) : (s.raise n).routes = s.routes := rfl
@[simp] theorem State.raise_zones (n : Notice) : (s.raise n).zones = s.zones := rfl
@[simp] theorem State.raise_composer (n : Notice) : (s.raise n).composer = s.composer := rfl
@[simp] theorem State.raise_panel (n : Notice) : (s.raise n).panel = s.panel := rfl
@[simp] theorem State.raise_port (n : Notice) : (s.raise n).port = s.port.raise n := rfl
@[simp] theorem State.raise_freeCount (n : Notice) : (s.raise n).freeCount = s.freeCount := rfl
@[simp] theorem State.raise_pending (n : Notice) : (s.raise n).pending = s.pending := rfl

@[simp] theorem State.answer_mode (st : ReqStatus) (code : Nat) (data : List Byte) : (s.answer st code data).mode = s.mode := rfl
@[simp] theorem State.answer_reason (st : ReqStatus) (code : Nat) (data : List Byte) : (s.answer st code data).reason = s.reason := rfl
@[simp] theorem State.answer_straps (st : ReqStatus) (code : Nat) (data : List Byte) : (s.answer st code data).straps = s.straps := rfl
@[simp] theorem State.answer_pins (st : ReqStatus) (code : Nat) (data : List Byte) : (s.answer st code data).pins = s.pins := rfl
@[simp] theorem State.answer_otp (st : ReqStatus) (code : Nat) (data : List Byte) : (s.answer st code data).otp = s.otp := rfl
@[simp] theorem State.answer_locked (st : ReqStatus) (code : Nat) (data : List Byte) : (s.answer st code data).locked = s.locked := rfl
@[simp] theorem State.answer_cycle (st : ReqStatus) (code : Nat) (data : List Byte) : (s.answer st code data).cycle = s.cycle := rfl
@[simp] theorem State.answer_settings (st : ReqStatus) (code : Nat) (data : List Byte) : (s.answer st code data).settings = s.settings := rfl
@[simp] theorem State.answer_idField (st : ReqStatus) (code : Nat) (data : List Byte) : (s.answer st code data).idField = s.idField := rfl
@[simp] theorem State.answer_lineA (st : ReqStatus) (code : Nat) (data : List Byte) : (s.answer st code data).lineA = s.lineA := rfl
@[simp] theorem State.answer_lineB (st : ReqStatus) (code : Nat) (data : List Byte) : (s.answer st code data).lineB = s.lineB := rfl
@[simp] theorem State.answer_txQueue (st : ReqStatus) (code : Nat) (data : List Byte) : (s.answer st code data).txQueue = s.txQueue := rfl
@[simp] theorem State.answer_ownSeq (st : ReqStatus) (code : Nat) (data : List Byte) : (s.answer st code data).ownSeq = s.ownSeq := rfl
@[simp] theorem State.answer_dups (st : ReqStatus) (code : Nat) (data : List Byte) : (s.answer st code data).dups = s.dups := rfl
@[simp] theorem State.answer_inbound (st : ReqStatus) (code : Nat) (data : List Byte) : (s.answer st code data).inbound = s.inbound := rfl
@[simp] theorem State.answer_time (st : ReqStatus) (code : Nat) (data : List Byte) : (s.answer st code data).time = s.time := rfl
@[simp] theorem State.answer_sessions (st : ReqStatus) (code : Nat) (data : List Byte) : (s.answer st code data).sessions = s.sessions := rfl
@[simp] theorem State.answer_routes (st : ReqStatus) (code : Nat) (data : List Byte) : (s.answer st code data).routes = s.routes := rfl
@[simp] theorem State.answer_zones (st : ReqStatus) (code : Nat) (data : List Byte) : (s.answer st code data).zones = s.zones := rfl
@[simp] theorem State.answer_composer (st : ReqStatus) (code : Nat) (data : List Byte) : (s.answer st code data).composer = s.composer := rfl
@[simp] theorem State.answer_panel (st : ReqStatus) (code : Nat) (data : List Byte) : (s.answer st code data).panel = s.panel := rfl
@[simp] theorem State.answer_port (st : ReqStatus) (code : Nat) (data : List Byte) : (s.answer st code data).port = s.port.answer st code data := rfl
@[simp] theorem State.answer_freeCount (st : ReqStatus) (code : Nat) (data : List Byte) : (s.answer st code data).freeCount = s.freeCount := rfl
@[simp] theorem State.answer_pending (st : ReqStatus) (code : Nat) (data : List Byte) : (s.answer st code data).pending = s.pending := rfl

@[simp] theorem State.takeInHand_mode (h : InHand) (code : Nat) : (s.takeInHand h code).mode = s.mode := rfl
@[simp] theorem State.takeInHand_reason (h : InHand) (code : Nat) : (s.takeInHand h code).reason = s.reason := rfl
@[simp] theorem State.takeInHand_straps (h : InHand) (code : Nat) : (s.takeInHand h code).straps = s.straps := rfl
@[simp] theorem State.takeInHand_pins (h : InHand) (code : Nat) : (s.takeInHand h code).pins = s.pins := rfl
@[simp] theorem State.takeInHand_otp (h : InHand) (code : Nat) : (s.takeInHand h code).otp = s.otp := rfl
@[simp] theorem State.takeInHand_locked (h : InHand) (code : Nat) : (s.takeInHand h code).locked = s.locked := rfl
@[simp] theorem State.takeInHand_cycle (h : InHand) (code : Nat) : (s.takeInHand h code).cycle = s.cycle := rfl
@[simp] theorem State.takeInHand_settings (h : InHand) (code : Nat) : (s.takeInHand h code).settings = s.settings := rfl
@[simp] theorem State.takeInHand_idField (h : InHand) (code : Nat) : (s.takeInHand h code).idField = s.idField := rfl
@[simp] theorem State.takeInHand_lineA (h : InHand) (code : Nat) : (s.takeInHand h code).lineA = s.lineA := rfl
@[simp] theorem State.takeInHand_lineB (h : InHand) (code : Nat) : (s.takeInHand h code).lineB = s.lineB := rfl
@[simp] theorem State.takeInHand_txQueue (h : InHand) (code : Nat) : (s.takeInHand h code).txQueue = s.txQueue := rfl
@[simp] theorem State.takeInHand_ownSeq (h : InHand) (code : Nat) : (s.takeInHand h code).ownSeq = s.ownSeq := rfl
@[simp] theorem State.takeInHand_dups (h : InHand) (code : Nat) : (s.takeInHand h code).dups = s.dups := rfl
@[simp] theorem State.takeInHand_inbound (h : InHand) (code : Nat) : (s.takeInHand h code).inbound = s.inbound := rfl
@[simp] theorem State.takeInHand_time (h : InHand) (code : Nat) : (s.takeInHand h code).time = s.time := rfl
@[simp] theorem State.takeInHand_sessions (h : InHand) (code : Nat) : (s.takeInHand h code).sessions = s.sessions := rfl
@[simp] theorem State.takeInHand_routes (h : InHand) (code : Nat) : (s.takeInHand h code).routes = s.routes := rfl
@[simp] theorem State.takeInHand_zones (h : InHand) (code : Nat) : (s.takeInHand h code).zones = s.zones := rfl
@[simp] theorem State.takeInHand_composer (h : InHand) (code : Nat) : (s.takeInHand h code).composer = s.composer := rfl
@[simp] theorem State.takeInHand_panel (h : InHand) (code : Nat) : (s.takeInHand h code).panel = s.panel := rfl
@[simp] theorem State.takeInHand_port (h : InHand) (code : Nat) : (s.takeInHand h code).port = s.port.takeInHand h code := rfl
@[simp] theorem State.takeInHand_freeCount (h : InHand) (code : Nat) : (s.takeInHand h code).freeCount = s.freeCount := rfl
@[simp] theorem State.takeInHand_pending (h : InHand) (code : Nat) : (s.takeInHand h code).pending = s.pending := rfl

@[simp] theorem State.supplyLevel_mode (level : Bool) : (s.supplyLevel level).mode = s.mode := rfl
@[simp] theorem State.supplyLevel_reason (level : Bool) : (s.supplyLevel level).reason = s.reason := rfl
@[simp] theorem State.supplyLevel_straps (level : Bool) : (s.supplyLevel level).straps = s.straps := rfl
@[simp] theorem State.supplyLevel_pins (level : Bool) : (s.supplyLevel level).pins = { s.pins with pgmSupply := level } := rfl
@[simp] theorem State.supplyLevel_otp (level : Bool) : (s.supplyLevel level).otp = s.otp := rfl
@[simp] theorem State.supplyLevel_locked (level : Bool) : (s.supplyLevel level).locked = s.locked := rfl
@[simp] theorem State.supplyLevel_cycle (level : Bool) : (s.supplyLevel level).cycle = s.cycle.map fun c => { c with lost := c.lost || !level } := rfl
@[simp] theorem State.supplyLevel_settings (level : Bool) : (s.supplyLevel level).settings = s.settings := rfl
@[simp] theorem State.supplyLevel_idField (level : Bool) : (s.supplyLevel level).idField = s.idField := rfl
@[simp] theorem State.supplyLevel_lineA (level : Bool) : (s.supplyLevel level).lineA = s.lineA := rfl
@[simp] theorem State.supplyLevel_lineB (level : Bool) : (s.supplyLevel level).lineB = s.lineB := rfl
@[simp] theorem State.supplyLevel_txQueue (level : Bool) : (s.supplyLevel level).txQueue = s.txQueue := rfl
@[simp] theorem State.supplyLevel_ownSeq (level : Bool) : (s.supplyLevel level).ownSeq = s.ownSeq := rfl
@[simp] theorem State.supplyLevel_dups (level : Bool) : (s.supplyLevel level).dups = s.dups := rfl
@[simp] theorem State.supplyLevel_inbound (level : Bool) : (s.supplyLevel level).inbound = s.inbound := rfl
@[simp] theorem State.supplyLevel_time (level : Bool) : (s.supplyLevel level).time = s.time := rfl
@[simp] theorem State.supplyLevel_sessions (level : Bool) : (s.supplyLevel level).sessions = s.sessions := rfl
@[simp] theorem State.supplyLevel_routes (level : Bool) : (s.supplyLevel level).routes = s.routes := rfl
@[simp] theorem State.supplyLevel_zones (level : Bool) : (s.supplyLevel level).zones = s.zones := rfl
@[simp] theorem State.supplyLevel_composer (level : Bool) : (s.supplyLevel level).composer = s.composer := rfl
@[simp] theorem State.supplyLevel_panel (level : Bool) : (s.supplyLevel level).panel = s.panel := rfl
@[simp] theorem State.supplyLevel_port (level : Bool) : (s.supplyLevel level).port = s.port := rfl
@[simp] theorem State.supplyLevel_freeCount (level : Bool) : (s.supplyLevel level).freeCount = s.freeCount := rfl
@[simp] theorem State.supplyLevel_pending (level : Bool) : (s.supplyLevel level).pending = s.pending := rfl

@[simp] theorem State.setLine_mode (l : LineId) (x : Line) : (s.setLine l x).mode = s.mode := by cases l <;> rfl
@[simp] theorem State.setLine_reason (l : LineId) (x : Line) : (s.setLine l x).reason = s.reason := by cases l <;> rfl
@[simp] theorem State.setLine_straps (l : LineId) (x : Line) : (s.setLine l x).straps = s.straps := by cases l <;> rfl
@[simp] theorem State.setLine_pins (l : LineId) (x : Line) : (s.setLine l x).pins = s.pins := by cases l <;> rfl
@[simp] theorem State.setLine_otp (l : LineId) (x : Line) : (s.setLine l x).otp = s.otp := by cases l <;> rfl
@[simp] theorem State.setLine_locked (l : LineId) (x : Line) : (s.setLine l x).locked = s.locked := by cases l <;> rfl
@[simp] theorem State.setLine_cycle (l : LineId) (x : Line) : (s.setLine l x).cycle = s.cycle := by cases l <;> rfl
@[simp] theorem State.setLine_settings (l : LineId) (x : Line) : (s.setLine l x).settings = s.settings := by cases l <;> rfl
@[simp] theorem State.setLine_idField (l : LineId) (x : Line) : (s.setLine l x).idField = s.idField := by cases l <;> rfl
@[simp] theorem State.setLine_txQueue (l : LineId) (x : Line) : (s.setLine l x).txQueue = s.txQueue := by cases l <;> rfl
@[simp] theorem State.setLine_ownSeq (l : LineId) (x : Line) : (s.setLine l x).ownSeq = s.ownSeq := by cases l <;> rfl
@[simp] theorem State.setLine_dups (l : LineId) (x : Line) : (s.setLine l x).dups = s.dups := by cases l <;> rfl
@[simp] theorem State.setLine_inbound (l : LineId) (x : Line) : (s.setLine l x).inbound = s.inbound := by cases l <;> rfl
@[simp] theorem State.setLine_time (l : LineId) (x : Line) : (s.setLine l x).time = s.time := by cases l <;> rfl
@[simp] theorem State.setLine_sessions (l : LineId) (x : Line) : (s.setLine l x).sessions = s.sessions := by cases l <;> rfl
@[simp] theorem State.setLine_routes (l : LineId) (x : Line) : (s.setLine l x).routes = s.routes := by cases l <;> rfl
@[simp] theorem State.setLine_zones (l : LineId) (x : Line) : (s.setLine l x).zones = s.zones := by cases l <;> rfl
@[simp] theorem State.setLine_composer (l : LineId) (x : Line) : (s.setLine l x).composer = s.composer := by cases l <;> rfl
@[simp] theorem State.setLine_panel (l : LineId) (x : Line) : (s.setLine l x).panel = s.panel := by cases l <;> rfl
@[simp] theorem State.setLine_port (l : LineId) (x : Line) : (s.setLine l x).port = s.port := by cases l <;> rfl
@[simp] theorem State.setLine_freeCount (l : LineId) (x : Line) : (s.setLine l x).freeCount = s.freeCount := by cases l <;> rfl
@[simp] theorem State.setLine_pending (l : LineId) (x : Line) : (s.setLine l x).pending = s.pending := by cases l <;> rfl

@[simp] theorem State.setLine_lineA_a (x : Line) : (s.setLine .a x).lineA = x := rfl
@[simp] theorem State.setLine_lineB_a (x : Line) : (s.setLine .a x).lineB = s.lineB := rfl
@[simp] theorem State.setLine_lineA_b (x : Line) : (s.setLine .b x).lineA = s.lineA := rfl
@[simp] theorem State.setLine_lineB_b (x : Line) : (s.setLine .b x).lineB = x := rfl

/-- A line reads as it was set. -/
@[simp] theorem State.line_setLine (l : LineId) (x : Line) : (s.setLine l x).line l = x := by cases l <;> rfl

/-- The other line is untouched. -/
@[simp] theorem State.line_setLine_other (l : LineId) (x : Line) :
    (s.setLine l x).line (otherLine l) = s.line (otherLine l) := by cases l <;> rfl

@[simp] theorem State.line_withQueue (l : LineId) (q : List TxFrame) : (s.withQueue q).line l = s.line l := by
  cases l <;> rfl

@[simp] theorem State.line_raise (l : LineId) (n : Notice) : (s.raise n).line l = s.line l := by cases l <;> rfl

/-- Setting a line twice is setting it once. -/
@[simp] theorem State.setLine_setLine (l : LineId) (x y : Line) : (s.setLine l x).setLine l y = s.setLine l y := by
  cases l <;> rfl

/-- Setting a line to what it is changes nothing. -/
@[simp] theorem State.setLine_line (l : LineId) : s.setLine l (s.line l) = s := by cases l <;> rfl

end Sys2Proof.Machine
end

