-- ==== Sys2Proof/Laws/Ops.lean ====
section
/-! SUPPORT. What each shared operation of Machine/Ops.lean can do, said once. -/

namespace Sys2Proof.Machine

/-! ## Time passing -/

@[simp] theorem State.elapse_zero (s : State) : s.elapse 0 = s := rfl

@[simp] theorem State.elapse_mode (n : Nat) (s : State) : (s.elapse n).mode = s.mode := by
  unfold State.elapse; split <;> rfl

@[simp] theorem State.elapse_reason (n : Nat) (s : State) : (s.elapse n).reason = s.reason := by
  unfold State.elapse; split <;> rfl

@[simp] theorem State.elapse_straps (n : Nat) (s : State) : (s.elapse n).straps = s.straps := by
  unfold State.elapse; split <;> rfl

@[simp] theorem State.elapse_pins (n : Nat) (s : State) : (s.elapse n).pins = s.pins := by
  unfold State.elapse; split <;> rfl

@[simp] theorem State.elapse_otp (n : Nat) (s : State) : (s.elapse n).otp = s.otp := by
  unfold State.elapse; split <;> rfl

@[simp] theorem State.elapse_locked (n : Nat) (s : State) : (s.elapse n).locked = s.locked := by
  unfold State.elapse; split <;> rfl

@[simp] theorem State.elapse_settings (n : Nat) (s : State) : (s.elapse n).settings = s.settings := by
  unfold State.elapse; split <;> rfl

@[simp] theorem State.elapse_idField (n : Nat) (s : State) : (s.elapse n).idField = s.idField := by
  unfold State.elapse; split <;> rfl

@[simp] theorem State.elapse_txQueue (n : Nat) (s : State) : (s.elapse n).txQueue = s.txQueue := by
  unfold State.elapse; split <;> rfl

@[simp] theorem State.elapse_ownSeq (n : Nat) (s : State) : (s.elapse n).ownSeq = s.ownSeq := by
  unfold State.elapse; split <;> rfl

@[simp] theorem State.elapse_inbound (n : Nat) (s : State) : (s.elapse n).inbound = s.inbound := by
  unfold State.elapse; split <;> rfl

@[simp] theorem State.elapse_composer (n : Nat) (s : State) : (s.elapse n).composer = s.composer := by
  unfold State.elapse; split <;> rfl

@[simp] theorem State.elapse_port (n : Nat) (s : State) : (s.elapse n).port = s.port := by
  unfold State.elapse; split <;> rfl

@[simp] theorem State.elapse_freeCount (n : Nat) (s : State) : (s.elapse n).freeCount = s.freeCount := by
  unfold State.elapse; split <;> rfl

@[simp] theorem State.elapse_pending (n : Nat) (s : State) : (s.elapse n).pending = s.pending := by
  unfold State.elapse; split <;> rfl

/-- A cycle under way stays the same cycle. -/
theorem State.elapse_cycle (n : Nat) (s : State) : (s.elapse n).cycle = s.cycle.map fun c =>
    { c with elapsed := c.elapsed + n } := by
  unfold State.elapse
  split
  · subst_vars; cases s.cycle <;> rfl
  · rfl

theorem State.elapse_dups (n : Nat) (s : State) :
    (s.elapse n).dups = if n = 0 then s.dups else dupsElapse n s.dups := by
  unfold State.elapse
  split <;> rfl

/-- R27: an entry left after some time is an older one, by that time, and of an age below 2 s. -/
theorem mem_dupsElapse {n : Nat} {dups : List DupEntry} {d : DupEntry} :
    d ∈ dupsElapse n dups ↔ (∃ c ∈ dups, d = { c with age := c.age + n }) ∧ d.age < 2000000 := by
  simp only [dupsElapse, List.mem_filter, List.mem_map, DupEntry.elapse, eq_comm (a := d)]
  exact and_congr_right fun _ => decide_eq_true_iff

/-- R27: time passing adds no entry. -/
theorem dupsElapse_length (n : Nat) (dups : List DupEntry) : (dupsElapse n dups).length ≤ dups.length :=
  (List.length_filter_le _ _).trans (by simp)

theorem State.elapse_sessions (n : Nat) (s : State) :
    (s.elapse n).sessions = { s.sessions with clock := s.sessions.clock + s.runTime n } := by
  unfold State.elapse
  split
  · subst_vars; simp [State.runTime]
  · rfl

theorem State.elapse_routes (n : Nat) (s : State) :
    (s.elapse n).routes = { s.routes with clock := s.routes.clock + s.runTime n } := by
  unfold State.elapse
  split
  · subst_vars; simp [State.runTime]
  · rfl

theorem State.elapse_zones (n : Nat) (s : State) :
    (s.elapse n).zones = { s.zones with clock := s.zones.clock + s.runTime n } := by
  unfold State.elapse
  split
  · subst_vars; simp [State.runTime]
  · rfl

@[simp] theorem State.after_none (f : State → State) (s : State) : s.after none f = s := rfl

@[simp] theorem State.after_due (f : State → State) (s : State) : s.after (some 0) f = f s := rfl

/-- An event either does not come about, or acts after some time. -/
theorem State.after_cases (w : Option Nat) (f : State → State) (s : State) :
    (w = none ∧ s.after w f = s) ∨ ∃ n, w = some n ∧ s.after w f = f (s.elapse n) := by
  cases w with
  | none => exact .inl ⟨rfl, rfl⟩
  | some n => exact .inr ⟨n, rfl, rfl⟩

/-! ## The Configuration Memory -/

/-- A word placed is read back. -/
@[simp] theorem otpRead_place_same (a : Nat) (w : Word) (cells : List OtpCell) (h : otpWf cells = true) :
    otpRead (otpPlace a w cells) a = w := by
  induction cells with
  | nil => by_cases hw : w = otpBlank <;> simp [otpPlace, otpRead, hw]
  | cons c rest ih =>
    obtain ⟨b, x⟩ := c
    simp only [otpWf, Bool.and_eq_true, decide_eq_true_eq, List.all_eq_true] at h
    obtain ⟨⟨-, hall⟩, hrest⟩ := h
    have blank : ∀ l : List OtpCell, (∀ c ∈ l, a < c.1) → otpRead l a = otpBlank := by
      intro l hl
      induction l with
      | nil => rfl
      | cons d l ihl =>
        have := hl d (by simp)
        rw [otpRead, if_neg (by omega)]
        exact ihl fun c hc => hl c (by simp [hc])
    unfold otpPlace
    split
    · rw [otpRead, if_neg (by omega)]; exact ih hrest
    · split
      · subst_vars
        split
        · next hw => rw [hw]; exact blank rest hall
        · simp [otpRead]
      · split
        · next hw =>
          rw [hw]
          exact blank _ (by
            intro c hc
            rcases List.mem_cons.1 hc with rfl | hc
            · simp; omega
            · have := hall c hc; omega)
        · simp [otpRead]

/-- A word placed leaves every other word alone. -/
theorem otpRead_place_other {a d : Nat} (w : Word) (cells : List OtpCell) (h : d ≠ a) :
    otpRead (otpPlace a w cells) d = otpRead cells d := by
  induction cells with
  | nil =>
    by_cases hw : w = otpBlank
    · simp [otpPlace, hw]
    · simp only [otpPlace, if_neg hw, otpRead, if_neg (Ne.symm h)]
  | cons c rest ih =>
    obtain ⟨b, x⟩ := c
    unfold otpPlace
    split
    · simp only [otpRead, ih]
    · split
      · subst_vars
        split <;> simp only [otpRead, if_neg (Ne.symm h)]
      · split
        · rfl
        · simp only [otpRead, if_neg (Ne.symm h)]

/-- A placed word's cells lie among the old ones and its own. -/
theorem mem_otpPlace {a : Nat} {w : Word} {cells : List OtpCell} {c : OtpCell} (h : c ∈ otpPlace a w cells) :
    (c = (a, w) ∧ w ≠ otpBlank) ∨ c ∈ cells := by
  induction cells with
  | nil =>
    simp only [otpPlace] at h
    split at h
    · simp at h
    · next hw => simp at h; exact .inl ⟨h, hw⟩
  | cons d rest ih =>
    obtain ⟨b, x⟩ := d
    simp only [otpPlace] at h
    split at h
    · rcases List.mem_cons.1 h with rfl | h
      · exact .inr (by simp)
      · rcases ih h with h | h
        · exact .inl h
        · exact .inr (by simp [h])
    · split at h
      · split at h
        · exact .inr (by simp [h])
        · next hw =>
          rcases List.mem_cons.1 h with rfl | h
          · exact .inl ⟨rfl, hw⟩
          · exact .inr (by simp [h])
      · split at h
        · exact .inr h
        · next hw =>
          rcases List.mem_cons.1 h with rfl | h
          · exact .inl ⟨rfl, hw⟩
          · exact .inr h

/-- Placing a word keeps the canonical form. -/
theorem otpWf_place (a : Nat) (w : Word) (cells : List OtpCell) (h : otpWf cells = true) :
    otpWf (otpPlace a w cells) = true := by
  induction cells with
  | nil => by_cases hw : w = otpBlank <;> simp [otpPlace, otpWf, hw]
  | cons c rest ih =>
    obtain ⟨b, x⟩ := c
    simp only [otpWf, Bool.and_eq_true, decide_eq_true_eq, List.all_eq_true] at h
    obtain ⟨⟨hx, hall⟩, hrest⟩ := h
    simp only [otpPlace]
    split
    · next hba =>
      simp only [otpWf, Bool.and_eq_true, decide_eq_true_eq, List.all_eq_true]
      refine ⟨⟨hx, fun c hc => ?_⟩, ih hrest⟩
      rcases mem_otpPlace hc with ⟨rfl, -⟩ | hc
      · simpa using hba
      · exact hall c hc
    · split
      · subst_vars
        split
        · exact hrest
        · next hw => simp [otpWf, hw, hrest]; exact fun a b h => by simpa using hall (a, b) h
      · split
        · simp [otpWf, hx, hrest]; exact fun a b h => by simpa using hall (a, b) h
        · next hw =>
          have hab : a < b := by omega
          simp only [otpWf, Bool.and_eq_true, decide_eq_true_eq, List.all_eq_true]
          refine ⟨⟨hw, fun c hc => ?_⟩, ⟨hx, hall⟩, hrest⟩
          rcases List.mem_cons.1 hc with rfl | hc
          · simpa using hab
          · have := hall c hc; omega

/-- R170: an undetermined word differs from the old one only in bits that were 1 and were to be cleared. -/
theorem undeterminedWord_bit (before pattern free : Word) (i : Nat) :
    (undeterminedWord before pattern free).getLsbD i =
      (before.getLsbD i && (pattern.getLsbD i || free.getLsbD i)) := by
  simp [undeterminedWord]

/-! ## Offers and indications -/

/-- An offer changes the Transmit Queue and the own sequence counter alone. -/
theorem State.offer_frame (b : Body) (r p : Bool) (s : State) :
    s.offer b r p = { s with txQueue := (s.offer b r p).txQueue, ownSeq := (s.offer b r p).ownSeq } := by
  unfold State.offer
  split <;> rfl

/-- A beacon-due indication changes the lines' beacon marks and the own sequence counter alone. -/
theorem State.beaconIndication_frame (s : State) :
    s.beaconIndication = { s with lineA := s.beaconIndication.lineA, lineB := s.beaconIndication.lineB,
                                  ownSeq := s.beaconIndication.ownSeq } := by
  unfold State.beaconIndication
  split
  · rfl
  · split <;> rfl

/-- A refused offer changes nothing. -/
theorem State.offer_refused {b : Body} {s : State} (h : s.takes b = false) (r p : Bool) : s.offer b r p = s := by
  have : s.offerDecision b = .refused := by simpa [State.takes] using h
  simp [State.offer, this]

/-- What an offer can do to the queue (R16, R17). -/
theorem State.offer_cases (b : Body) (r p : Bool) (s : State) :
    s.offer b r p = s ∨
    (s.offerDecision b = .replaced ∧ (s.offer b r p).txQueue = dropFinished (s.txQueue.map fun f =>
      if f.replaceable then { s.newFrame b r p with curA := f.curA, curB := f.curB } else f)) ∨
    (s.offerDecision b = .appended ∧ (s.offer b r p).txQueue = dropFinished (s.txQueue ++ [s.newFrame b r p])) := by
  unfold State.offer
  split
  · exact .inl rfl
  · next h => exact .inr (.inl ⟨h, rfl⟩)
  · next h => exact .inr (.inr ⟨h, rfl⟩)

/-! ## Requests -/

/-- What a transaction taken as a request can do (R172 to R174). -/
theorem State.request_cases (code : Nat) (ok : Bool) (allowed : Mode → Bool) (act : State → State) (s : State) :
    s.request code ok allowed act = s ∨
    (∃ st, s.request code ok allowed act = s.answer st code []) ∨
    (s.straps.portEn = true ∧ s.port.inHand = none ∧ s.mode ≠ .start ∧ ok = true ∧ allowed s.mode = true ∧
      s.request code ok allowed act = act s) := by
  unfold State.request
  split
  · exact .inl rfl
  split
  · exact .inr (.inl ⟨_, rfl⟩)
  split
  · exact .inr (.inl ⟨_, rfl⟩)
  split
  · exact .inr (.inl ⟨_, rfl⟩)
  split
  · exact .inr (.inl ⟨_, rfl⟩)
  · refine .inr (.inr ⟨?_, ?_, ?_, ?_, ?_, rfl⟩) <;> simp_all

/-- A request that meets its conditions is carried out. -/
theorem State.request_carried {code : Nat} {ok : Bool} {allowed : Mode → Bool} {act : State → State} {s : State}
    (h1 : s.straps.portEn = true) (h2 : s.port.inHand = none) (h3 : s.mode ≠ .start) (h4 : ok = true)
    (h5 : allowed s.mode = true) : s.request code ok allowed act = act s := by
  simp [State.request, h1, h2, h3, h4, h5]

end Sys2Proof.Machine
end

