-- ==== Sys2Proof/Laws/Parts.lean ====
section
/-!
SUPPORT. What the shared operations of the block's parts can do: one lemma an operation, for a proof to cite in place of unfolding
it.
-/

namespace Sys2Proof.Machine

/-! ## Hall lines -/

/-- Everything that the carrier of a CARRIER_STUCK can be: what is present, or a carrier measured from some reading on. -/
theorem Line.carrierUnbroken_cases (limit : Nat) (x : Line) :
    (x.carrier = true ∧ x.carrierUnbroken limit = x) ∨
    (∃ n, x.carrier = false ∧ x.pastFrame = some n ∧ n ≤ limit ∧
      x.carrierUnbroken limit = { x with carrier := true, carrierTime := n, pastFrame := none, idleTime := 0 }) ∨
    (x.carrier = false ∧ (∀ n, x.pastFrame = some n → limit < n) ∧
      x.carrierUnbroken limit = { x with carrier := true, carrierTime := 0, pastFrame := none, idleTime := 0 }) := by
  cases hc : x.carrier with
  | true => exact .inl ⟨rfl, by simp [Line.carrierUnbroken, hc]⟩
  | false =>
    cases hp : x.pastFrame with
    | none => exact .inr (.inr ⟨rfl, by simp, by simp [Line.carrierUnbroken, hc, hp, Line.busy]⟩)
    | some n =>
      rcases Nat.lt_or_ge limit n with h | h
      · exact .inr (.inr ⟨rfl, by simpa using h, by simp [Line.carrierUnbroken, hc, hp, Nat.not_le.mpr h, Line.busy]⟩)
      · exact .inr (.inl ⟨n, rfl, rfl, h, by simp [Line.carrierUnbroken, hc, hp, h, Line.busy]⟩)

/-- Carrier that is present is the one measured. -/
theorem Line.carrierUnbroken_of_carrier (limit : Nat) {x : Line} (h : x.carrier = true) : x.carrierUnbroken limit = x := by
  simp [Line.carrierUnbroken, h]

/-- A line that the station does not drive has no transmission to wait for. -/
theorem State.sentWait_released {l : LineId} {s : State} (h : (s.line l).driverEnable = false) : s.sentWait l = none := by
  unfold State.sentWait
  split
  · rename_i hs
    simp [Line.driverEnable, hs] at h
  · rfl

/-- R13: on a line that the station does not drive the carrier's measurement alone decides. -/
theorem State.stuckWait_released {l : LineId} {s : State} (hr : s.running = true) (hm : (s.line l).monitored = true)
    (hd : (s.line l).driverEnable = false) :
    s.stuckWait l = some (s.stuckLimit - ((s.line l).carrierUnbroken s.stuckLimit).carrierTime) := by
  simp [State.stuckWait, hr, hm, State.sentWait_released hd, onlyIf]

/-- R13: a frame of at most 248 bytes ends before its own carrier has been measured for 10,000 bit-times. -/
theorem State.stuckWait_sending {l : LineId} {s : State} {bytes : List Byte} {e : Nat}
    (ha : (s.line l).access = .sending bytes e) (hb : bytes.length ≤ 248) (hc : (s.line l).carrier = true)
    (hle : (s.line l).carrierTime ≤ e) (hlt : (s.line l).carrierTime < 10000 * s.bitTime) : s.stuckWait l = none := by
  have hw : s.sentWait l = some (frameBitTimes bytes.length * s.bitTime - e) := by simp [State.sentWait, ha]
  have := Nat.mul_le_mul_right s.bitTime (show frameBitTimes bytes.length ≤ 2496 by unfold frameBitTimes; omega)
  simp [State.stuckWait, hw, Line.carrierUnbroken_of_carrier _ hc, State.stuckLimit, onlyIf]
  omega

/-- R22: a frame that passes the frame check has been taken in whole. -/
theorem frameWhole_of_parseFrame {bytes : List Byte} {f : RawFrame} (h : parseFrame bytes = some f) :
    frameWhole bytes = true := by
  unfold parseFrame at h
  split at h
  · split at h
    · cases h
    · split at h
      · cases h
      · simp [frameWhole]
        omega
  · cases h

/-- What a line is once a received frame has ended. -/
theorem Line.endReception_eq (bytes : List Byte) (x : Line) :
    x.endReception bytes = { x with
      carrier := false, carrierTime := 0, idleTime := 0, rx := none
      pastFrame := if frameWhole bytes && x.carrier then some x.carrierTime else none } := by
  unfold Line.endReception
  cases frameWhole bytes <;> cases hc : x.carrier <;> simp [Line.frameOver, Line.quiet, onlyIf, hc]

/-! ## Composer -/

/-- An invalidating event leaves cache, offered plate and pin set alone. -/
theorem Composer.invalidate_frame (p : Pass) (c : Composer) :
    (c.invalidate p).cache = c.cache ∧ (c.invalidate p).offered = c.offered ∧ (c.invalidate p).pinSet = c.pinSet := by
  simp only [Composer.invalidate]
  split <;> [skip; split; skip; skip; skip] <;> exact ⟨rfl, rfl, rfl⟩

/-- Everything an invalidating event does (R145, R146). -/
theorem Composer.invalidate_cases (p : Pass) (c : Composer) :
    (c.st = .valid ∧ c.invalidate p = { c with st := .composing, pass := some p }) ∨
    (c.st = .composing ∧ c.discard < 2 ∧ c.invalidate p = { c with discard := c.discard + 1, pass := some p }) ∨
    (c.st = .composing ∧ 2 ≤ c.discard ∧ c.invalidate p = { c with discard := 3, st := .finalPass, pass := some p }) ∨
    (c.st = .finalPass ∧ c.invalidate p = { c with late := true }) ∨
    ((c.st = .idle ∨ c.st = .fixed) ∧ c.invalidate p = c) := by
  cases h : c.st with
  | valid => exact .inl ⟨rfl, by simp [Composer.invalidate, h]⟩
  | composing =>
    rcases Nat.lt_or_ge c.discard 2 with hd | hd
    · exact .inr (.inl ⟨rfl, hd, by
        simp only [Composer.invalidate, h]; rw [if_pos (by omega)]⟩)
    · exact .inr (.inr (.inl ⟨rfl, hd, by
        simp only [Composer.invalidate, h]; rw [if_neg (by omega)]⟩))
  | finalPass => exact .inr (.inr (.inr (.inl ⟨rfl, by simp [Composer.invalidate, h]⟩)))
  | idle => exact .inr (.inr (.inr (.inr ⟨.inl rfl, by simp [Composer.invalidate, h]⟩)))
  | fixed => exact .inr (.inr (.inr (.inr ⟨.inr rfl, by simp [Composer.invalidate, h]⟩)))

/-- A property that every invalidating event keeps is kept by any number of reports. -/
theorem Composer.foldl_invalidateIf {α : Type} (q : Composer → Prop) (p : Pass) (hit : Composer → α → Bool)
    (keep : ∀ c, q c → q (c.invalidate p)) (l : List α) {c : Composer} (h : q c) :
    q (l.foldl (fun c a => c.invalidateIf (hit c a) p) c) := by
  induction l generalizing c with
  | nil => exact h
  | cons a as ih =>
    refine ih ?_
    simp only [Composer.invalidateIf]
    split
    exacts [keep _ h, h]

/-- The reports of the Session Table keep it (R82, R141). -/
theorem Composer.onSessions_keeps (q : Composer → Prop) (p : Pass) (keep : ∀ c, q c → q (c.invalidate p)) (st : Settings)
    (rs : List SessionReport) {c : Composer} (h : q c) : q (c.onSessions st p rs) :=
  Composer.foldl_invalidateIf q p (fun c r => c.hitBySession st r) keep rs h

/-- The reports of the Route Engine keep it (R107, R142). -/
theorem Composer.onRoutes_keeps (q : Composer → Prop) (p : Pass) (keep : ∀ c, q c → q (c.invalidate p))
    (rs : List RouteReport) {c : Composer} (h : q c) : q (c.onRoutes p rs) :=
  Composer.foldl_invalidateIf q p (fun c (r : RouteReport) => c.hitByRoute r.room) keep rs h

/-- An event of the Time Unit keeps it, if marking the valid-until time as reached does (R143, R144). -/
theorem Composer.onTime_keeps (q : Composer → Prop) (p : Pass) (keep : ∀ c, q c → q (c.invalidate p))
    (mark : ∀ c now, q c → q (c.markReached now)) (moved minute told : Bool) {c : Composer} (h : q c) :
    q (c.onTime moved minute told p) := by
  have hit : ∀ b c, q c → q (c.invalidateIf b p) := fun b c h => by
    simp only [Composer.invalidateIf]
    split
    exacts [keep _ h, h]
  have reach : q (c.reachIf moved p) := by
    simp only [Composer.reachIf]
    split
    exacts [mark _ _ (hit _ _ h), h]
  exact hit _ _ (hit _ _ reach)

/-! ## Panel Port -/

/-- Everything the examination of R152 does. -/
theorem PanelPort.examine_cases (limit : Nat) (hold : Bool) (p : PanelPort) :
    (∃ plate, p.slot = some plate ∧ p.st = .idle ∧ hold = false ∧ p.passed limit = true ∧
      p.examine limit hold = p.startDelivery plate) ∨ p.examine limit hold = p := by
  simp only [PanelPort.examine]
  split
  · split
    · rename_i plate h hc
      simp only [Bool.and_eq_true, decide_eq_true_eq, Bool.not_eq_true'] at hc
      exact .inl ⟨plate, h, hc.1.1, hc.1.2, hc.2, rfl⟩
    · exact .inr rfl
  · exact .inr rfl

/-- Everything the examination of a due fault attempt does (R156). -/
theorem PanelPort.examineFault_cases (hold : Bool) (p : PanelPort) :
    (∃ plate, p.slot = some plate ∧ p.st = .fault ∧ p.faultDue = true ∧ hold = false ∧
      p.examineFault hold = p.startAttempt plate) ∨ p.examineFault hold = p := by
  simp only [PanelPort.examineFault]
  split
  · split
    · rename_i plate h hc
      simp only [Bool.and_eq_true, decide_eq_true_eq, Bool.not_eq_true'] at hc
      exact .inl ⟨plate, h, hc.1.1, hc.1.2, hc.2, rfl⟩
    · exact .inr rfl
  · exact .inr rfl

/-! ## Session Table -/

/-- Housekeeping's moving on touches the running and the waiting pass alone (R72, R73). -/
theorem SessionTable.settle_frame (tb : SessionTable) :
    ∃ running waiting, tb.settle = { tb with running := running, waiting := waiting } := by
  have hs : ∃ running waiting, tb.startWaiting = { tb with running := running, waiting := waiting } := by
    simp only [SessionTable.startWaiting]
    split
    exacts [⟨none, tb.waiting, rfl⟩, ⟨_, none, rfl⟩]
  simp only [SessionTable.settle]
  split
  · exact hs
  · split
    exacts [⟨_, tb.waiting, rfl⟩, hs]

/-- A minute event touches the running and the waiting pass alone (R72, R73). -/
theorem SessionTable.minuteEvent_frame (known : Bool) (d m : Nat) (tb : SessionTable) :
    ∃ running waiting, tb.minuteEvent known d m = { tb with running := running, waiting := waiting } := by
  simp only [SessionTable.minuteEvent]
  split
  · exact ⟨tb.running, tb.waiting, rfl⟩
  · split
    · exact ⟨tb.running, some (d, m), rfl⟩
    · obtain ⟨r, w, h⟩ := SessionTable.settle_frame { tb with waiting := some (d, m) }
      exact ⟨r, w, h⟩

/-- A merge leaves the posting buffer, the passes and the clock alone, and drops no request but an evicted entry's (R63 to R70, R74). -/
theorem SessionTable.merge_frame (st : Settings) (t : TimeUnit) (r : SessionRecord) (isLocal : Bool) (tb : SessionTable) :
    ∃ entries changed reqs, reqs.Sublist tb.refreshReqs ∧
      (tb.merge st t r isLocal).table = { tb with entries := entries, changed := changed, refreshReqs := reqs } := by
  simp only [SessionTable.merge]
  split
  · simp only [SessionTable.insert]
    split
    · exact ⟨_, _, _, List.Sublist.refl _, rfl⟩
    · split
      · exact ⟨_, _, _, List.filter_sublist, rfl⟩
      · exact ⟨_, _, _, List.Sublist.refl _, rfl⟩
  · split
    · exact ⟨_, _, _, List.Sublist.refl _, rfl⟩
    · split
      · split
        · dsimp only
          split <;> exact ⟨_, _, _, List.Sublist.refl _, rfl⟩
        · exact ⟨_, _, _, List.Sublist.refl _, rfl⟩
      · dsimp only
        split <;> exact ⟨_, _, _, List.Sublist.refl _, rfl⟩

/-- R61: a merge's arrival time is the table clock's reading or later, and later than every held entry's. -/
theorem SessionTable.arrivalNow_spec (tb : SessionTable) :
    tb.clock ≤ tb.arrivalNow ∧ ∀ e ∈ tb.entries, e.arrival < tb.arrivalNow :=
  foldl_max_succ SessionEntry.arrival tb.entries tb.clock

/-- R61: it is the reading itself where every held entry arrived before. -/
theorem SessionTable.arrivalNow_eq {tb : SessionTable} (h : ∀ e ∈ tb.entries, e.arrival < tb.clock) :
    tb.arrivalNow = tb.clock :=
  foldl_max_succ_eq SessionEntry.arrival tb.entries tb.clock h

/-- What a merge touches of the station. -/
theorem State.merged_frame (o : MergeOut) (s : State) :
    s.merged o = { s with
      sessions := (s.merged o).sessions, composer := (s.merged o).composer, port := (s.merged o).port } := rfl

/-! ## Time Unit -/

/-- What a minute event given for a crossing touches of the station (R38). -/
theorem State.giveCrossing_frame (s : State) :
    s.giveCrossing = { s with
      time := s.giveCrossing.time, sessions := s.giveCrossing.sessions, composer := s.giveCrossing.composer } := by
  simp only [State.giveCrossing]
  split <;> rfl

/-- What an event of the Time Unit touches of the station. -/
theorem State.timeEvent_frame (o : TimeOut) (s : State) :
    s.timeEvent o = { s with
      time := (s.timeEvent o).time, sessions := (s.timeEvent o).sessions, composer := (s.timeEvent o).composer
      port := (s.timeEvent o).port } := by
  simp only [State.timeEvent, State.giveCrossing]
  split
  · split <;> rfl
  · rfl

/-- A moved counter is a reading in range, with its fraction kept (R39). -/
theorem TimeUnit.shift_range (d : Int) (t : TimeUnit) :
    (t.shift d).day < 256 ∧ (t.shift d).ms < 86400000 ∧ (t.shift d).frac = t.frac := by
  refine ⟨?_, ?_, rfl⟩ <;> simp only [TimeUnit.shift, dayMs, wrapMs] <;> omega

/-- Everything an adjustment does (R39, R43). -/
theorem TimeUnit.adjust_cases (d : Int) (waiting : Nat) (t : TimeUnit) :
    (d = 0 ∧ t.adjust d waiting = t) ∨
      (d ≠ 0 ∧ t.adjust d waiting = { t.shift d with stale := t.stale + waiting }) := by
  by_cases h : d = 0
  · exact .inl ⟨h, if_pos h⟩
  · exact .inr ⟨h, if_neg h⟩

/-- A clamped value lies within its bounds. -/
theorem clampTo_range {b : Int} (hb : 0 ≤ b) (x : Int) : -b ≤ clampTo b x ∧ clampTo b x ≤ b := by
  simp only [clampTo]
  omega

/-! ## Route Engine -/

/-- What work on the Route Table touches of the station. -/
theorem State.withRoutes_frame (o : RouteOut) (s : State) :
    s.withRoutes o = { s with
      routes := (s.withRoutes o).routes, composer := (s.withRoutes o).composer, port := (s.withRoutes o).port } := rfl

/-- Everything a recomputation does to an entry's bests (R94, R95). -/
theorem RouteEntry.recomputed_cases (st : Settings) (closed : ZoneVec) (x : RouteEntry) :
    ((x.selected st closed true).cost.better (x.selected st closed false).cost = true ∧
      x.recomputed st closed = { x with level := x.selected st closed true, any := x.selected st closed true }) ∨
    ((x.selected st closed true).cost.better (x.selected st closed false).cost = false ∧
      x.recomputed st closed = { x with level := x.selected st closed true, any := x.selected st closed false }) := by
  cases h : (x.selected st closed true).cost.better (x.selected st closed false).cost with
  | true => exact .inl ⟨rfl, by simp [RouteEntry.recomputed, reconcile, h]⟩
  | false => exact .inr ⟨rfl, by simp [RouteEntry.recomputed, reconcile, h]⟩

/-- Everything a recomputation leaves in the table: the entry placed with its new bests, its change count raised or kept. -/
theorem RouteOut.recompute_entries (st : Settings) (closed : ZoneVec) (x : RouteEntry) (o : RouteOut) :
    ∃ n, (o.recompute st closed x).eng.entries =
      putEntry { x.recomputed st closed with changeCount := n } o.eng.entries := by
  simp only [RouteOut.recompute]
  split
  · exact ⟨_, rfl⟩
  · exact ⟨x.changeCount, rfl⟩

/-- Of entries in ascending room order the one of a room. -/
theorem RouteEngine.entry_eq_some {e : RouteEngine} {room : Nat} {x : RouteEntry}
    (h : (e.entries.map (·.room)).Pairwise (· < ·)) :
    e.entry room = some x ↔ x ∈ e.entries ∧ x.room = room := by
  constructor
  · intro hx
    exact ⟨List.mem_of_find?_eq_some hx, by simpa using List.find?_some hx⟩
  · rintro ⟨hx, rfl⟩
    have : ∃ y, e.entry x.room = some y := by
      unfold RouteEngine.entry
      rw [← Option.isSome_iff_exists, List.find?_isSome]
      exact ⟨x, hx, by simp⟩
    obtain ⟨y, hy⟩ := this
    have hy' : y ∈ e.entries := List.mem_of_find?_eq_some hy
    have hr : y.room = x.room := by simpa using List.find?_some hy
    rw [hy]
    congr 1
    exact List.inj_on_of_nodup_map (h.imp Nat.ne_of_lt) hy' hx hr

/-- A placed entry is its room's, and every other room keeps its own. -/
theorem RouteEngine.entry_put {e : RouteEngine} (h : (e.entries.map (·.room)).Pairwise (· < ·)) (x : RouteEntry) (r : Nat) :
    (e.put x).entry r = if r = x.room then some x else e.entry r := by
  have hp : ((e.put x).entries.map (·.room)).Pairwise (· < ·) := putEntry_ascending h
  apply Option.ext
  intro y
  rw [RouteEngine.entry_eq_some hp]
  show y ∈ putEntry x e.entries ∧ _ ↔ _
  rw [mem_putEntry h]
  split
  · rename_i hr; subst hr
    constructor
    · rintro ⟨rfl | ⟨_, hne⟩, hr⟩
      · rfl
      · exact absurd hr hne
    · rintro ⟨rfl⟩; exact ⟨.inl rfl, rfl⟩
  · rename_i hr
    rw [RouteEngine.entry_eq_some h]
    constructor
    · rintro ⟨rfl | ⟨hm, _⟩, rfl⟩
      · exact absurd rfl hr
      · exact ⟨hm, rfl⟩
    · rintro ⟨hm, rfl⟩; exact ⟨.inr ⟨hm, hr⟩, rfl⟩

/-- Everything the joining of the prompt set does (R115). -/
theorem RouteEngine.joinPrompt_spec (room : Nat) (e : RouteEngine) :
    (∀ r, r ∈ (e.joinPrompt room).promptSet ↔ r ∈ e.promptSet ∨ r = room) ∧
    (e.joinPrompt room).promptSet ≠ [] ∧
    (e.joinPrompt room).promptAt = (if e.promptSet = [] then some (e.clock + 1000000) else e.promptAt) ∧
    e.joinPrompt room = { e with promptSet := (e.joinPrompt room).promptSet, promptAt := (e.joinPrompt room).promptAt } := by
  have hm : ∀ r, r ∈ (e.joinPrompt room).promptSet ↔ r ∈ e.promptSet ∨ r = room := by
    intro r; simp [RouteEngine.joinPrompt, or_comm]
  refine ⟨hm, ?_, ?_, rfl⟩
  · intro h0; have := (hm room).2 (.inr rfl); rw [h0] at this; cases this
  · simp only [RouteEngine.joinPrompt, List.isEmpty_iff, retryTime]

/-- R92: the notices of a recomputation are those of its candidates. -/
theorem RouteEntry.formNotices_iff (st : Settings) (closed : ZoneVec) (x : RouteEntry) (i : Nat) :
    (x.formNotices st closed).getLsbD i = true ↔ ∃ level, ∃ k ∈ st.links,
      (candidate st closed level k (x.held level k.index)).notices.getLsbD i = true := by
  rw [RouteEntry.formNotices, bits_foldl_or]
  simp only [RouteEntry.candidates, List.mem_append, List.mem_map]
  constructor
  · rintro (h | ⟨c, ⟨k, hk, rfl⟩ | ⟨k, hk, rfl⟩, h⟩)
    · simp at h
    · exact ⟨false, k, hk, h⟩
    · exact ⟨true, k, hk, h⟩
  · rintro ⟨level, k, hk, h⟩
    cases level
    · exact .inr ⟨_, .inl ⟨k, hk, rfl⟩, h⟩
    · exact .inr ⟨_, .inr ⟨k, hk, rfl⟩, h⟩

/-- Everything a recomputation does (R92, R96, R106, R107, R115). -/
theorem RouteOut.recompute_spec (st : Settings) (closed : ZoneVec) (x : RouteEntry) (o : RouteOut)
    (h : (o.eng.entries.map (·.room)).Pairwise (· < ·)) :
    let y := x.recomputed st closed
    let p := o.recompute st closed x
    let same : Prop := y.any = x.any ∧ y.level = x.level
    (same → p.eng.entry x.room = some x ∧ p.reports = o.reports) ∧
    (¬same → p.eng.entry x.room = some { y with changeCount := (x.changeCount + 1) % 65536 } ∧
      p.reports = o.reports ++ [.changed x.room y.any y.level]) ∧
    (∀ r, r ∈ p.eng.promptSet ↔ r ∈ o.eng.promptSet ∨ (r = x.room ∧ ¬same)) ∧
    p.eng.promptAt =
      (if o.eng.promptSet = [] ∧ p.eng.promptSet ≠ [] then some (o.eng.clock + 1000000) else o.eng.promptAt) ∧
    (∀ i, p.notices.getLsbD i = true ↔ o.notices.getLsbD i = true ∨ ∃ level, ∃ k ∈ st.links,
      (candidate st closed level k (x.held level k.index)).notices.getLsbD i = true) ∧
    (∀ r, r ≠ x.room → p.eng.entry r = o.eng.entry r) ∧
    (p.eng.entries.map (·.room)).Pairwise (· < ·) ∧
    p.eng = { o.eng with entries := p.eng.entries, promptSet := p.eng.promptSet, promptAt := p.eng.promptAt } := by
  intro y p same
  have hn : ∀ i, p.notices.getLsbD i = true ↔ o.notices.getLsbD i = true ∨ ∃ level, ∃ k ∈ st.links,
      (candidate st closed level k (x.held level k.index)).notices.getLsbD i = true := by
    intro i
    have : p.notices = o.notices ||| x.formNotices st closed := by simp only [p, RouteOut.recompute]; split <;> rfl
    rw [this, BitVec.getLsbD_or, Bool.or_eq_true, RouteEntry.formNotices_iff]
  by_cases hs : same
  · have hp : p = { eng := o.eng.put y, notices := o.notices ||| x.formNotices st closed, reports := o.reports } := by
      simp only [p, RouteOut.recompute]
      rw [if_neg (by simpa only [not_or, not_not] using hs)]
    have hy : y = x := by
      have : y = { x with any := y.any, level := y.level } := rfl
      rw [this, hs.1, hs.2]
    refine ⟨fun _ => ⟨?_, by rw [hp]⟩, fun h => absurd hs h, fun r => by simp [hp, hs, RouteEngine.put], ?_, hn,
      fun r hr => ?_, ?_, ?_⟩
    · rw [hp]; simp only [RouteEngine.entry_put h, hy, if_true]
    · rw [hp]; show o.eng.promptAt = _; rw [if_neg]; rintro ⟨h1, h2⟩; exact h2 h1
    · rw [hp]; simp only [RouteEngine.entry_put h, hy, if_neg hr]
    · rw [hp]; exact putEntry_ascending h
    · rw [hp]; rfl
  · let z : RouteEntry := { y with changeCount := (x.changeCount + 1) % 65536 }
    have hp : p = { eng := (o.eng.put z).joinPrompt x.room, notices := o.notices ||| x.formNotices st closed,
                    reports := o.reports ++ [.changed x.room y.any y.level] } := by
      simp only [p, RouteOut.recompute]
      rw [if_pos (by by_contra hc; rw [not_or, not_not, not_not] at hc; exact hs hc)]
    obtain ⟨j1, j2, j3, j4⟩ := RouteEngine.joinPrompt_spec x.room (o.eng.put z)
    have he : ∀ r, p.eng.entry r = (o.eng.put z).entry r := by intro r; rw [hp]; rfl
    have hz : z.room = x.room := rfl
    refine ⟨fun h => absurd h hs, fun _ => ⟨?_, by rw [hp]⟩, fun r => ?_, ?_, hn, fun r hr => ?_, ?_, ?_⟩
    · rw [he, RouteEngine.entry_put h, if_pos hz.symm]
    · rw [hp]; simp only [j1, hs, not_false_iff, and_true]; rfl
    · rw [hp]; simp only [j3]
      show _ = if _ ∧ _ then some (o.eng.clock + 1000000) else o.eng.promptAt
      have : (o.eng.put z).promptSet = o.eng.promptSet := rfl
      simp only [this, j2, ne_eq, not_false_iff, and_true]; rfl
    · rw [he, RouteEngine.entry_put h, if_neg (by rw [hz]; exact hr)]
    · rw [hp]; exact putEntry_ascending h
    · rw [hp]; rfl

/-- Everything a removal does (R105, R107, R109, R115). -/
theorem RouteOut.remove_spec (x : RouteEntry) (o : RouteOut) :
    let p := o.remove x
    let known : Prop := x.any.cost ≠ .unknown ∨ x.level.cost ≠ .unknown
    (∀ r, p.eng.entry r = if r = x.room then none else o.eng.entry r) ∧
    p.reports = o.reports ++ [.removed x.room] ∧ p.notices = o.notices ∧
    (∀ r, r ∈ p.eng.promptSet ↔ r ∈ o.eng.promptSet ∨ (r = x.room ∧ known)) ∧
    p.eng.promptAt =
      (if o.eng.promptSet = [] ∧ p.eng.promptSet ≠ [] then some (o.eng.clock + 1000000) else o.eng.promptAt) ∧
    p.eng.entries = o.eng.entries.filter (fun y => decide (y.room ≠ x.room)) ∧
    p.eng = { o.eng with entries := p.eng.entries, promptSet := p.eng.promptSet, promptAt := p.eng.promptAt } := by
  intro p known
  let e : RouteEngine := { o.eng with entries := o.eng.entries.filter fun y => decide (y.room ≠ x.room) }
  have hen : p.eng.entries = e.entries := by simp only [p, RouteOut.remove]; split <;> rfl
  have hent : ∀ r, p.eng.entry r = if r = x.room then none else o.eng.entry r := by
    intro r
    unfold RouteEngine.entry
    rw [hen]
    simp only [e, List.find?_filter]
    split
    · rename_i h; subst h
      rw [List.find?_eq_none]; intro y _; simp
    · rename_i h
      congr 1; funext y
      by_cases hy : y.room = r <;> simp [hy, h]
  obtain ⟨j1, j2, j3, j4⟩ := RouteEngine.joinPrompt_spec x.room e
  have hk : x.knownBest = true ↔ known := by simp [RouteEntry.knownBest, known]
  by_cases h : x.knownBest = true
  · have hp : p.eng = e.joinPrompt x.room := by simp only [p, RouteOut.remove, h, if_true, e]
    refine ⟨hent, rfl, rfl, fun r => ?_, ?_, hen, ?_⟩
    · rw [hp, j1]; simp only [hk.1 h, and_true]; rfl
    · rw [hp, j3]; show (if o.eng.promptSet = [] then some (o.eng.clock + 1000000) else o.eng.promptAt) = _
      simp only [j2, ne_eq, not_false_iff, and_true]
    · rw [hp]; rfl
  · have hp : p.eng = e := by simp only [p, RouteOut.remove, h, e]; rfl
    have hk' : ¬known := fun hh => h (hk.2 hh)
    refine ⟨hent, rfl, rfl, fun r => ?_, ?_, hen, ?_⟩
    · rw [hp]; simp only [hk', and_false, or_false]; rfl
    · rw [hp]; show o.eng.promptAt = if o.eng.promptSet = [] ∧ o.eng.promptSet ≠ [] then _ else _
      rw [if_neg]; rintro ⟨h1, h2⟩; exact h2 h1
    · rw [hp]
/-- A property that every entry operation and the holding of the job keep is kept by a job going on (R101). -/
theorem RouteEngine.goOn_keeps (q : RouteOut → Prop) (st : Settings) (closed : ZoneVec)
    (op : ∀ o x, q o → q (o.doOp st closed x)) (hold : ∀ o job left, q o → q { o with eng := o.eng.hold job left })
    (upTo : Option Nat) {e : RouteEngine} (h : q e.work) : q (e.goOn st closed upTo) := by
  simp only [RouteEngine.goOn]
  split
  · rename_i j _
    refine hold _ _ _ ?_
    generalize j.left.take (upTo.getD j.left.length) = l
    generalize e.work = o at h
    induction l generalizing o with
    | nil => exact h
    | cons x l ih => exact ih _ (op _ _ h)
  · exact h

/-! ## Condition List -/

/-- R120: a frame's time last heard is the list clock's reading or later, and later than every contribution's. -/
theorem ConditionList.heardNow_spec (z : ConditionList) :
    z.clock ≤ z.heardNow ∧ ∀ c ∈ z.contributions, c.heard < z.heardNow :=
  foldl_max_succ Contribution.heard z.contributions z.clock

/-- R120: it is the reading itself where every contribution was heard before. -/
theorem ConditionList.heardNow_eq {z : ConditionList} (h : ∀ c ∈ z.contributions, c.heard < z.clock) :
    z.heardNow = z.clock :=
  foldl_max_succ_eq Contribution.heard z.contributions z.clock h

/-- What the forming of the aggregates touches of the station. -/
theorem State.withZones_frame (z : ConditionList) (s : State) :
    s.withZones z = { s with
      zones := z.aggregate, routes := (s.withZones z).routes, composer := (s.withZones z).composer } := by
  simp only [State.withZones]
  split <;> rfl

/-- The Route Engine's waiting recomputation is all that a report of CLOSED can set (R110). -/
theorem RouteEngine.closedReported_cases (st : Settings) (closed : ZoneVec) (e : RouteEngine) :
    e.closedReported st closed = { e with conditionJob := true } ∨ e.closedReported st closed = e := by
  simp only [RouteEngine.closedReported]
  split
  exacts [.inl rfl, .inr rfl]

end Sys2Proof.Machine
end

