-- ==== Sys2Proof/WellFormed.lean ====
section
/-!
DEFINITION. Which commands are well formed: operands the manual's ranges allow.
-/

namespace Sys2Proof

/-- The operands lie in the ranges the manual gives them.
* a back-off draw comes from a window of at most 256 (R3, R7);
* a frame ends at the latest with as many bytes as its header's body length calls for, and the CRC (R22); a length above 240 is no bar,
  for R23 is what discards such a frame;
* slots are 0..63 (R61), and the source of a contribution is what two bytes of a frame's header can say (chapter 12; log entry 37);
* READ SESSION with a first body byte 0xFF is the NEXT-CHANGED form, with any other the form by index (chapter 12, 12.2);
* a code that names no request is above 0x0D (R184). -/
def Instr.WellFormed : Instr → Bool
  | .lineIdleGap _ draw => decide (draw < 256)
  | .frameEnd _ bytes => decide (bytes.length ≤ 8 + (bytes.getD 5 0).toNat)
  | .refreshDue slot => decide (slot < 64)
  | .tombstoneExpiry slot => decide (slot < 64)
  | .contributionExpiry source => decide (source < 65536)
  | .readSessionByIndex body => decide (body.head? ≠ some 0xFF#8)
  | .readSessionNextChanged body => decide (body.head? = some 0xFF#8)
  | .requestCodeNamesNoRequest code _ => decide (0x0D < code.toNat)
  | .resetNAssert | .resetNRelease _ _ | .lineBusy _ | .backoffExpiry _ | .echoFailure _ | .collision _ | .frameSent _
  | .carrierStuck _ | .stuckLineRecovery _ | .startDelimiter _ | .duplicateEntryExpiry | .beaconHandover | .roundEnd
  | .beaconTimerExpiry | .minuteEvent | .setTime _ | .inboundMerge | .postingBufferMerge | .housekeepingRemoval
  | .refreshScanGrant | .composerSessionRead | .localPortSessionRead | .advertHandover | .advertJob
  | .conditionRecomputation | .pinSetUpdate | .frameBuilding | .sweepTimerExpiry | .sweep | .roundDue | .roundRetry
  | .promptDue | .composerRouteRead | .localPortRouteRead | .conditionHandover | .spillClear | .postZones _
  | .ownFrameRetry | .ownFrameResend | .validUntilReached | .passEnd | .panelIntervalExpiry | .plateClockedOut
  | .panelAck _ | .ackTimeout | .panelBusyFall | .busyTimeout | .faultTimerExpiry | .panelHoldFall | .panelHoldRise
  | .readStatus _ | .ackNotices _ | .setAttentionEnables _ | .clearAttentionEnables _ | .readPlate _ | .lineRestart _
  | .postSession _ | .readRoute _ | .programWord _ _ | .programCycleEnd | .pgmSupplyFall | .verifyWord _ _ => true

end Sys2Proof
end

