-- ==== Sys2Proof/Laws/PerInstr.lean ====
section
/-!
SUPPORT. What is said of every command as syntax, one lemma per constructor of `Instr`: a command is well formed exactly when its
operands lie in the manual's ranges.
-/

namespace Sys2Proof.Laws.OperandRanges

/-- The ranges of the operands as the manual counts them: a draw of a window of at most 256 (R3, R7), a frame of at most
header, the body bytes that its header calls for, and CRC (R22), slots 0..63 (R61), sources of two bytes (chapter 12), the two forms of READ SESSION, and codes above 0x0D (R184). -/
def Ranges : Instr → Prop
  | .lineIdleGap _ draw => draw < 256
  | .frameEnd _ bytes => ∀ head len rest, bytes = head ++ len :: rest → head.length = 5 → rest.length ≤ len.toNat + 2
  | .refreshDue slot => slot ≤ 63
  | .tombstoneExpiry slot => slot ≤ 63
  | .contributionExpiry source => source ≤ 65535
  | .readSessionByIndex body => ∀ rest, body ≠ 0xFF#8 :: rest
  | .readSessionNextChanged body => ∃ rest, body = 0xFF#8 :: rest
  | .requestCodeNamesNoRequest code _ => 14 ≤ code.toNat
  | .resetNAssert | .resetNRelease _ _ | .lineBusy _ | .backoffExpiry _ | .echoFailure _ | .collision _ | .frameSent _
  | .carrierStuck _ | .stuckLineRecovery _ | .startDelimiter _ | .duplicateEntryExpiry | .beaconHandover | .roundEnd
  | .beaconTimerExpiry | .minuteEvent | .setTime _ | .inboundMerge | .postingBufferMerge | .housekeepingRemoval
  | .refreshScanGrant | .composerSessionRead | .localPortSessionRead | .advertHandover | .advertJob
  | .conditionRecomputation | .pinSetUpdate | .frameBuilding | .sweepTimerExpiry | .sweep | .roundDue | .roundRetry
  | .promptDue | .composerRouteRead | .localPortRouteRead | .conditionHandover | .spillClear | .postZones _
  | .ownFrameRetry | .ownFrameResend | .validUntilReached | .passEnd | .panelIntervalExpiry | .plateClockedOut
  | .panelAck _ | .ackTimeout | .panelBusyFall | .busyTimeout | .faultTimerExpiry | .panelHoldFall | .panelHoldRise
  | .readStatus _ | .ackNotices _ | .setAttentionEnables _ | .clearAttentionEnables _ | .readPlate _ | .lineRestart _
  | .postSession _ | .readRoute _ | .programWord _ _ | .programCycleEnd | .pgmSupplyFall | .verifyWord _ _ => True

/-- Well-formedness says the ranges and nothing else. -/
def Statement (i : Instr) : Prop := i.WellFormed = true ↔ Ranges i

theorem resetNAssert : Statement .resetNAssert :=
  iff_of_true rfl trivial

theorem resetNRelease (straps : Straps) (panelDetect : Bool) : Statement (.resetNRelease straps panelDetect) :=
  iff_of_true rfl trivial

theorem lineIdleGap (line : LineId) (draw : Nat) : Statement (.lineIdleGap line draw) :=
  decide_eq_true_iff

theorem lineBusy (line : LineId) : Statement (.lineBusy line) :=
  iff_of_true rfl trivial

theorem backoffExpiry (line : LineId) : Statement (.backoffExpiry line) :=
  iff_of_true rfl trivial

theorem echoFailure (line : LineId) : Statement (.echoFailure line) :=
  iff_of_true rfl trivial

theorem collision (line : LineId) : Statement (.collision line) :=
  iff_of_true rfl trivial

theorem frameSent (line : LineId) : Statement (.frameSent line) :=
  iff_of_true rfl trivial

theorem carrierStuck (line : LineId) : Statement (.carrierStuck line) :=
  iff_of_true rfl trivial

theorem stuckLineRecovery (line : LineId) : Statement (.stuckLineRecovery line) :=
  iff_of_true rfl trivial

theorem startDelimiter (line : LineId) : Statement (.startDelimiter line) :=
  iff_of_true rfl trivial

theorem frameEnd (line : LineId) (bytes : List Byte) : Statement (.frameEnd line bytes) := by
  refine decide_eq_true_iff.trans ⟨fun h head len rest hb hh => ?_, fun h => ?_⟩
  · subst hb
    have : (head ++ len :: rest).getD 5 0 = len := by simp [List.getD_eq_getElem?_getD, ← hh]
    rw [this] at h
    simp only [List.length_append, List.length_cons] at h
    omega
  · rcases Nat.lt_or_ge 5 bytes.length with hl | hl
    · have hg : bytes.getD 5 0 = bytes[5] := by simp [List.getD_eq_getElem?_getD, hl]
      have := h (bytes.take 5) bytes[5] (bytes.drop 6) (by simp) (by simp; omega)
      rw [hg]
      simp only [List.length_drop] at this
      omega
    · omega

theorem duplicateEntryExpiry : Statement .duplicateEntryExpiry :=
  iff_of_true rfl trivial

theorem beaconHandover : Statement .beaconHandover :=
  iff_of_true rfl trivial

theorem roundEnd : Statement .roundEnd :=
  iff_of_true rfl trivial

theorem beaconTimerExpiry : Statement .beaconTimerExpiry :=
  iff_of_true rfl trivial

theorem minuteEvent : Statement .minuteEvent :=
  iff_of_true rfl trivial

theorem setTime (body : List Byte) : Statement (.setTime body) :=
  iff_of_true rfl trivial

theorem inboundMerge : Statement .inboundMerge :=
  iff_of_true rfl trivial

theorem postingBufferMerge : Statement .postingBufferMerge :=
  iff_of_true rfl trivial

theorem housekeepingRemoval : Statement .housekeepingRemoval :=
  iff_of_true rfl trivial

theorem refreshDue (slot : Nat) : Statement (.refreshDue slot) :=
  decide_eq_true_iff.trans Nat.lt_succ_iff

theorem refreshScanGrant : Statement .refreshScanGrant :=
  iff_of_true rfl trivial

theorem tombstoneExpiry (slot : Nat) : Statement (.tombstoneExpiry slot) :=
  decide_eq_true_iff.trans Nat.lt_succ_iff

theorem composerSessionRead : Statement .composerSessionRead :=
  iff_of_true rfl trivial

theorem localPortSessionRead : Statement .localPortSessionRead :=
  iff_of_true rfl trivial

theorem advertHandover : Statement .advertHandover :=
  iff_of_true rfl trivial

theorem advertJob : Statement .advertJob :=
  iff_of_true rfl trivial

theorem conditionRecomputation : Statement .conditionRecomputation :=
  iff_of_true rfl trivial

theorem pinSetUpdate : Statement .pinSetUpdate :=
  iff_of_true rfl trivial

theorem frameBuilding : Statement .frameBuilding :=
  iff_of_true rfl trivial

theorem sweepTimerExpiry : Statement .sweepTimerExpiry :=
  iff_of_true rfl trivial

theorem sweep : Statement .sweep :=
  iff_of_true rfl trivial

theorem roundDue : Statement .roundDue :=
  iff_of_true rfl trivial

theorem roundRetry : Statement .roundRetry :=
  iff_of_true rfl trivial

theorem promptDue : Statement .promptDue :=
  iff_of_true rfl trivial

theorem composerRouteRead : Statement .composerRouteRead :=
  iff_of_true rfl trivial

theorem localPortRouteRead : Statement .localPortRouteRead :=
  iff_of_true rfl trivial

theorem conditionHandover : Statement .conditionHandover :=
  iff_of_true rfl trivial

theorem contributionExpiry (source : Nat) : Statement (.contributionExpiry source) :=
  decide_eq_true_iff.trans Nat.lt_succ_iff

theorem spillClear : Statement .spillClear :=
  iff_of_true rfl trivial

theorem postZones (body : List Byte) : Statement (.postZones body) :=
  iff_of_true rfl trivial

theorem ownFrameRetry : Statement .ownFrameRetry :=
  iff_of_true rfl trivial

theorem ownFrameResend : Statement .ownFrameResend :=
  iff_of_true rfl trivial

theorem validUntilReached : Statement .validUntilReached :=
  iff_of_true rfl trivial

theorem passEnd : Statement .passEnd :=
  iff_of_true rfl trivial

theorem panelIntervalExpiry : Statement .panelIntervalExpiry :=
  iff_of_true rfl trivial

theorem plateClockedOut : Statement .plateClockedOut :=
  iff_of_true rfl trivial

theorem panelAck (busy : Bool) : Statement (.panelAck busy) :=
  iff_of_true rfl trivial

theorem ackTimeout : Statement .ackTimeout :=
  iff_of_true rfl trivial

theorem panelBusyFall : Statement .panelBusyFall :=
  iff_of_true rfl trivial

theorem busyTimeout : Statement .busyTimeout :=
  iff_of_true rfl trivial

theorem faultTimerExpiry : Statement .faultTimerExpiry :=
  iff_of_true rfl trivial

theorem panelHoldFall : Statement .panelHoldFall :=
  iff_of_true rfl trivial

theorem panelHoldRise : Statement .panelHoldRise :=
  iff_of_true rfl trivial

theorem readStatus (body : List Byte) : Statement (.readStatus body) :=
  iff_of_true rfl trivial

theorem ackNotices (body : List Byte) : Statement (.ackNotices body) :=
  iff_of_true rfl trivial

theorem setAttentionEnables (body : List Byte) : Statement (.setAttentionEnables body) :=
  iff_of_true rfl trivial

theorem clearAttentionEnables (body : List Byte) : Statement (.clearAttentionEnables body) :=
  iff_of_true rfl trivial

theorem readPlate (body : List Byte) : Statement (.readPlate body) :=
  iff_of_true rfl trivial

theorem lineRestart (body : List Byte) : Statement (.lineRestart body) :=
  iff_of_true rfl trivial

theorem postSession (body : List Byte) : Statement (.postSession body) :=
  iff_of_true rfl trivial

theorem readSessionByIndex (body : List Byte) : Statement (.readSessionByIndex body) := by
  cases body <;> simp [Statement, Instr.WellFormed, Ranges]

theorem readSessionNextChanged (body : List Byte) : Statement (.readSessionNextChanged body) := by
  cases body <;> simp [Statement, Instr.WellFormed, Ranges]

theorem readRoute (body : List Byte) : Statement (.readRoute body) :=
  iff_of_true rfl trivial

theorem programWord (body : List Byte) (supply : Bool) : Statement (.programWord body supply) :=
  iff_of_true rfl trivial

theorem programCycleEnd : Statement .programCycleEnd :=
  iff_of_true rfl trivial

theorem pgmSupplyFall : Statement .pgmSupplyFall :=
  iff_of_true rfl trivial

theorem verifyWord (body : List Byte) (supply : Bool) : Statement (.verifyWord body supply) :=
  iff_of_true rfl trivial

theorem requestCodeNamesNoRequest (code : Byte) (body : List Byte) : Statement (.requestCodeNamesNoRequest code body) :=
  decide_eq_true_iff

end Sys2Proof.Laws.OperandRanges
end

