-- ==== Sys2Proof/Tests/Slice0.lean ====
section
/-!
SUPPORT. Tests: the manual's own worked cases, one step each, the refusals of `Instr.WellFormed`, and for the statements that have
hypotheses a concrete state and operands that meet them (theorems named `test_witness_…`).
-/

namespace Sys2Proof.Tests

open Sys2Proof.Machine

/-! ## Helpers -/

/-- The state a command leaves. -/
def after (c : Instr) (s : State) : State :=
  match exec c s with
  | .next t => t
  | .fault _ => s
  | .refused _ => s

/-- Station 214 of the manual's worked sequences (chapter 5, 5.10; chapter 8, 8.6; chapter 9, 9.7). -/
def station214 : Settings :=
  { stationId := 214, homeRoom := 214, zone := 6, policy := .limit, roomName := [], lookAhead := 30, panelInterval := 5
    links := [{ index := 0, neighbour := 213, zone := 6, glyph := 0, length := 40, stairs := false },
      { index := 1, neighbour := 215, zone := 6, glyph := 1, length := 35, stairs := false },
      { index := 2, neighbour := 301, zone := 9, glyph := 2, length := 120, stairs := true }]
    directory := [300], filters := [] }

/-- It is in RUN at 1 Mbit/s, with a Local Port. -/
def run : State :=
  { State.reset with
    mode := .run, straps := { lineRate := true, listenOnly := false, prog := false, portEn := true }
    settings := station214 }

/-- Station 73 of the acceptance and eviction examples (chapter 2, 2.5; chapter 4, 4.14). -/
def station73 : Settings :=
  { Settings.reset with stationId := 73, directory := [300, 301], filters := [{ value := 320, mask := 1008 }] }

/-- A session record. -/
def session (publisher number version day startMin endMin : Nat) (rooms : List Nat) : SessionRecord :=
  { publisher := publisher, number := number, version := version, status := .normal, plenary := false, rooms := rooms
    day := day, startMin := startMin, endMin := endMin, movedTo := none, title := [], track := none, speaker := none }

/-- A tombstone. -/
def tombstone (publisher number version : Nat) (rooms : List Nat) : SessionRecord :=
  { session publisher number version 0 0 0 rooms with status := .withdrawn }

/-- An entry that arrived at 0. -/
def entry (slot : Nat) (r : SessionRecord) : SessionEntry :=
  { slot := slot, record := r, arrival := 0, isLocal := false, nextRefresh := none, expiry := none }

/-- The entry of a slot as a read returns it. -/
def seen (slot : Nat) (r : SessionRecord) : Option SessionView :=
  some { slot := slot, record := r, arrival := slot, isLocal := false, tombstone := false, changed := false }

/-- A queued frame, PENDING on both lines. -/
def queued (seq : Nat) (b : Body) : TxFrame :=
  { seq := seq, refresh := false, prompt := false, body := b, started := false, markA := .pending, markB := .pending
    curA := false, curB := false }

/-- A frame of the Inbound Queue from a source. -/
def heard (source : Nat) (b : Body) : InFrame :=
  { source := source, seq := 0, refresh := false, prompt := false, body := b, arrival := none }

/-- An advert value. -/
def finite (metres hops via : Nat) : AdvValue := { cost := .finite metres hops, via := via }

/-- A link of a length in zone 4 to station 9. -/
def link (length : Nat) (stairs : Bool) : Link :=
  { index := 0, neighbour := 9, zone := 4, glyph := 0, length := length, stairs := stairs }

/-! ## Well-formedness and decoding -/

/-- A draw comes from a window of at most 256. -/
theorem test_wf_draw : (Instr.lineIdleGap .a 255).WellFormed = true ∧ (Instr.lineIdleGap .a 256).WellFormed = false := by
  decide

/-- A frame is at most its header, the body bytes its header calls for (R22), were it 255 of them (R23), and the CRC. -/
theorem test_wf_frame :
    let frame (len : Byte) (rest : Nat) := Instr.frameEnd .a ([1, 0, 0, 9, 0, len] ++ List.replicate rest 0)
    (frame 255 257).WellFormed = true ∧ (frame 255 258).WellFormed = false ∧ (frame 241 0).WellFormed = true ∧
      (frame 0 2).WellFormed = true ∧ (frame 0 3).WellFormed = false := by decide +kernel

/-- Slots are 0..63. -/
theorem test_wf_slots : (Instr.refreshDue 63).WellFormed = true ∧ (Instr.refreshDue 64).WellFormed = false ∧
    (Instr.tombstoneExpiry 64).WellFormed = false := by decide

/-- Sources are 16-bit numbers: no rule keeps a frame from outside 1 to 4000 out (log 37). -/
theorem test_wf_source : (Instr.contributionExpiry 65535).WellFormed = true ∧
    (Instr.contributionExpiry 65536).WellFormed = false := by decide

/-- The two forms of READ SESSION are told apart by the first body byte. -/
theorem test_wf_readSession : (Instr.readSessionByIndex [0xFF]).WellFormed = false ∧
    (Instr.readSessionNextChanged [0x3F]).WellFormed = false ∧ (Instr.readSessionNextChanged []).WellFormed = false := by
  decide

/-- 0x0D names VERIFY WORD; the first code that names no request is 0x0E. -/
theorem test_wf_code : (Instr.requestCodeNamesNoRequest 0x0D []).WellFormed = false ∧
    (Instr.requestCodeNamesNoRequest 0x0E []).WellFormed = true := by decide

/-- The table gives no row any bits. -/
theorem test_noWordSpells : decodeTableWord 8 0x05 = none ∧ decodeTableWord 0 0 = none := by decide

/-! ## Layouts (chapter 12) -/

/-- The polynomial of R1 with initial value all ones, not reflected, not inverted: its published check value. -/
theorem test_crc_checkValue :
    crc16 [0x31, 0x32, 0x33, 0x34, 0x35, 0x36, 0x37, 0x38, 0x39] = 0x29B1#16 := by decide +kernel

/-- R22, R23: a whole frame, a cut one, one with a flipped bit, and a body length of 241. -/
theorem test_frame_checks :
    (parseFrame (frameBytes 4 0 9 5 [1, 2])).isSome = true ∧ parseFrame ((frameBytes 4 0 9 5 [1, 2]).dropLast) = none ∧
      parseFrame (((frameBytes 4 0 9 5 [1, 2]).take 6 ++ [3]) ++ (frameBytes 4 0 9 5 [1, 2]).drop 7) = none ∧
      parseFrame (4 :: 0 :: 0 :: 9 :: 5 :: 241 :: List.replicate 243 0) = none := by decide +kernel

/-- Chapter 10, 10.5: the record checks at each stage of programming. -/
theorem test_record_checks :
    let w (id last marker : Word) (a : Nat) : Word :=
      if a = 0 then id else if a = 1 then 54919#16 - id else if a = 62 then last else if a = 63 then marker else 0
    validateRecord (fun _ => 0xFFFF) = some .blank ∧ validateRecord (w 214 0x2979 0xFFFF) = some .blank ∧
      validateRecord (w 214 0 0) = some .checksum ∧ validateRecord (w 4095 0x2979 0) = some .badId ∧
      validateRecord (w 214 0x2979 0) = none := by decide +kernel

/-! ## Line access and reception (chapter 1, 1.11; chapter 2, 2.5) -/

/-- Step 4: a collision of the current frame doubles W. -/
theorem test_collision_doubles :
    let s := run.setLine .a { Line.reset with access := .sending [] 0 }
    (after (.collision .a) s).lineA.window = 32 ∧ (after (.collision .a) s).lineA.collisions = 1 := by decide

/-- Step 13: with line B STUCK a frame starts ABANDONED there. -/
theorem test_offer_stuckLine :
    let s := { run.setLine .b { Line.reset with st := .stuck } with ownSeq := 44 }
    ((s.offer (.condition 1 0) false false).txQueue.map fun f => (f.seq, f.markA, f.markB)) =
      [(44, .pending, .abandoned)] ∧ (s.offer (.condition 1 0) false false).ownSeq = 45 := by decide

/-- Step 14: a newer CONDITION frame takes the place of one not attempted. -/
theorem test_offer_replaces :
    let s := { run with ownSeq := 45, txQueue := [queued 44 (.condition 1 0), queued 43 (.advert [])] }
    ((s.offer (.condition 3 0) false false).txQueue.map fun f => (f.seq, f.body)) =
      [(45, .condition 3 0), (43, .advert [])] := by decide

/-- Step 5: a beacon-due indication marks both lines with one number. -/
theorem test_beaconDue_bothLines :
    let t := { run with ownSeq := 43 }.beaconIndication
    (t.lineA.beaconSeq, t.lineB.beaconSeq, t.lineA.beaconDue, t.lineB.beaconDue, t.ownSeq) = (43, 43, true, true, 44) := by
  decide

/-- The five SESSION frames of the acceptance example. -/
theorem test_acceptance :
    (station73.acceptsSession false [214, 215], station73.acceptsSession false [301],
      station73.acceptsSession false [335, 336], station73.acceptsSession false [336],
      station73.acceptsSession true [900]) = (false, true, true, false, true) := by decide

/-! ## Conference time (chapter 3, 3.7) -/

/-- The deviations of a joining station, across midnight and across the day wrap. -/
theorem test_deviation :
    deviation { day := 2, ms := 39492400 } { day := 0, ms := 0 } = 212292400 ∧
      deviation { day := 3, ms := 50 } { day := 2, ms := 86399900 } = 150 ∧
      deviation { day := 0, ms := 10 } { day := 255, ms := 86399980 } = 30 ∧
      deviation { day := 255, ms := 86399990 } { day := 0, ms := 20 } = -30 := by decide

/-- The end of the joining round: day 2, 10:58:20.400, LOCKED. -/
theorem test_roundEnd_joins :
    let t := ({ TimeUnit.reset with
      ms := 8000, sync := .joining, devs := [(9, 212292400), (17, 212292430), (31, 212292380)] }.endRound 0).time
    (t.day, t.ms, t.sync) = (2, 39500400, .locked) := by decide

/-- An ordinary round: correction +11 ms, trim −12 + 40 ppm. -/
theorem test_roundEnd_inBand :
    let t := ({ TimeUnit.reset with
      ms := 1000, sync := .locked, trim := -12, devs := [(9, -40), (17, 12), (31, 15), (102, 90), (215, 8)] }.endRound 0).time
    (t.ms, t.trim) = (1011, 28) := by decide

/-- A large in-band midpoint: +250 ms. The third round out of band: a step. -/
theorem test_roundEnd_large :
    ({ TimeUnit.reset with ms := 1000, sync := .locked, devs := [(9, 1480)] }.endRound 0).time.ms = 1250 ∧
      ({ TimeUnit.reset with ms := 5000, sync := .locked, outBand := 2, devs := [(9, -3100)] }.endRound 0).time.ms = 1900 := by
  decide

/-- Corrections that carry into the next day and borrow from day 0. -/
theorem test_shift_wraps :
    let x := { TimeUnit.reset with day := 4, ms := 86399900 }.shift 250
    let y := { TimeUnit.reset with day := 0, ms := 100 }.shift (-250)
    (x.day, x.ms, y.day, y.ms) = (5, 150, 255, 86399850) := by decide

/-! ## Session Table (chapter 4, 4.13, 4.14) -/

/-- Steps 1, 3 and 4 at station 214: next refresh 161.5 s, brought forward to the repair time 103.26 s. -/
theorem test_refreshTimes :
    refreshFrom 214 100000000 = 161500000 ∧ min 161500000 (repairFrom 214 101760000) = 103260000 ∧
      refreshFrom 215 103270000 = 165020000 := by decide

/-- The full table: first the ended entry, then the one that starts latest, and nothing for a WITHDRAWN record. -/
theorem test_eviction :
    let t := { TimeUnit.reset with day := 2, ms := 39510000, sync := .locked }
    let tb := { SessionTable.reset with entries :=
      [entry 4 (session 12 290 1 2 480 540 [300]), entry 9 (session 40 17 1 2 990 1050 [335, 336]),
        entry 17 (session 12 410 1 3 540 600 [301]), entry 30 (session 5 2 1 2 600 690 [900])] }
    ((tb.victim station73 t (session 40 21 1 2 840 900 [330])).map (·.slot)) = some 4 ∧
      (((tb.remove 4).victim station73 t (session 5 9 1 2 900 960 [320])).map (·.slot)) = some 17 ∧
      ((tb.remove 4).victim station73 t (tombstone 40 40 1 [320])) = none := by decide

/-! ## Routes (chapter 5, 5.9, 5.10; chapter 6, 6.4) -/

/-- The candidate table. -/
theorem test_candidates :
    let sub := { Settings.reset with stationId := 214 }
    let lim := { sub with policy := .limit }
    (candidate sub 0 false (link 180 false) (some (finite 1055 4 8))).cost = .finite 1235 5 ∧
      (candidate sub 0 false (link 4000 false) (some (finite 28000 0 8))).cost = .finite 32000 1 ∧
      candidate sub 0 false (link 180 false) (some (finite 31900 12 8)) = { cost := .unreachable, notices := 0x1000 } ∧
      candidate lim 0 false (link 180 false) (some (finite 31900 12 8)) = { cost := .finite 32000 13, notices := 0x1000 } ∧
      candidate lim 0 false (link 400 false) (some (finite 31900 31 8)) = { cost := .unreachable, notices := 0x2000 } ∧
      (candidate sub 0 false (link 1 false) (some { cost := .closed 30, via := 8 })).cost = .closed 31 ∧
      (candidate sub 0 true (link 60 true) (some (finite 420 2 8))).cost = .unreachable ∧
      (candidate sub 0 false (link 60 true) (some (finite 420 2 8))).cost = .finite 480 3 ∧
      candidate sub 0 false (link 1 false) (some (finite 200 31 214)) = { cost := .unreachable, notices := 0 } ∧
      (candidate sub 0x10 false (link 1 false) (some (finite 300 2 8))).cost = .closed 3 ∧
      (candidate sub 0x10 false (link 1 false) (some { cost := .unreachable, via := 8 })).cost = .unreachable ∧
      (candidate sub 0 false (link 1 false) none).cost = .unknown := by decide

/-- The selection table. -/
theorem test_selection :
    let pick (cs : List Cost) : Best := selectBest ((List.range cs.length).zip (cs.map Formed.plain))
    pick [.unknown, .unreachable, .closed 3] = { cost := .closed 3, link := some 2 } ∧
      pick [.unknown, .unreachable] = { cost := .unknown, link := none } ∧
      pick [.unreachable, .unreachable, .unreachable] = { cost := .unreachable, link := none } ∧
      pick [.finite 650 4, .finite 650 3, .finite 640 6] = { cost := .finite 640 6, link := some 2 } ∧
      pick [.finite 650 4, .finite 650 4, .closed 1] = { cost := .finite 650 4, link := some 0 } ∧
      pick [.closed 5, .closed 2, .unknown] = { cost := .closed 2, link := some 1 } := by decide

/-- Room 300 of station 214 as its neighbours advertise it. -/
def room300 : RouteEntry :=
  { room := 300, any := Best.unknown, level := Best.unknown, pinned := true, changeCount := 0
    stored := [{ link := 0, any := finite 610 3 90, level := finite 610 3 90, heard := 0 },
      { link := 1, any := finite 660 4 214, level := finite 720 5 88, heard := 0 },
      { link := 2, any := finite 150 1 305, level := { cost := .unreachable, via := 0 }, heard := 0 }] }

/-- Step 1, all zones open; step 2, zone 9 closed. -/
theorem test_recomputation :
    (room300.recomputed station214 0).any = { cost := .finite 270 2, link := some 2 } ∧
      (room300.recomputed station214 0).level = { cost := .finite 650 4, link := some 0 } ∧
      (room300.recomputed station214 0x200).any = { cost := .finite 650 4, link := some 0 } ∧
      (room300.recomputed station214 0).any.advertised station214 0 = finite 270 2 301 := by decide

/-- The displayed distances of R98. -/
theorem test_distances :
    [0, 1, 3, 14, 15, 1234, 1235, 32000].map displayedDistance = [0, 10, 10, 10, 20, 1230, 1240, 32000] := by decide

/-- A full Route Table: room 602 is the victim. -/
theorem test_victim :
    let e (room : Nat) (c : Cost) (n : Nat) : RouteEntry :=
      { room := room, any := { cost := c, link := none }, level := Best.unknown, stored := [], pinned := false, changeCount := n }
    ({ RouteEngine.reset with
      entries := [e 601 .unreachable 5, e 602 .unreachable 2, e 603 .unknown 0, e 700 (.closed 4) 9] } : RouteEngine).victim =
      some (e 602 .unreachable 2) := by decide

/-! ## Zone conditions (chapter 7, 7.7) -/

/-- Sixteen contributions, those of stations 41 and 44 zero. -/
def fullList : ConditionList :=
  { ConditionList.reset with
    clock := 500000000
    contributions := (List.range 16).map fun i =>
      { source := 41 + i, closed := if i = 0 ∨ i = 3 then 0 else 0x100000, notice := 0, heard := 490000000 + i } }

/-- Step 1: the oldest zero contribution gives way. Steps 2 and 3: with none left the spill record is merged. -/
theorem test_spill :
    let z := (fullList.handle 99 0x1000 0).list
    (z.has 41, z.has 44, z.has 99) = (false, true, true) ∧
      ((z.handle 98 0x2000 0).list.handle 97 0x4000 0x4000).spilled = true ∧
      ((z.handle 98 0x2000 0).list.handle 97 0x4000 0x4000).list.spillClosed = 0x4000 := by decide

/-! ## Plate composition (chapter 8, 8.6, 8.7) -/

/-- The pass at a ms of day on day 2, over the sessions A, B and C. -/
def passAt (ms : Nat) : Pass :=
  { known := true, moment := { day := 2, ms := ms }, closed := 0, notice := 0, routes := []
    slots := [seen 0 (session 12 301 3 2 570 660 [214, 215]), seen 1 { session 12 302 1 2 675 720 [214] with status := .full },
      none, seen 3 (session 5 40 2 2 690 750 [300])] }

/-- 10:58:30: A is current, B is next with countdown 17, C is not listed; valid until 10:59. -/
theorem test_pass_1058 :
    let x := (passAt 39510000).selection station214
    (x.current.map (·.number), x.next.map (·.number), x.directory) = (some 301, some 302, []) ∧
      countdown 39510000 40500000 = some 17 ∧
      (passAt 39510000).validUntil station214 = some { day := 2, ms := 39540000 } := by decide

/-- 11:00: A has ended and C is listed; valid until 11:01. -/
theorem test_pass_1100 :
    let x := (passAt 39600000).selection station214
    (x.current.map (·.number), x.directory.map (·.number)) = (none, [40]) ∧
      (passAt 39600000).validUntil station214 = some { day := 2, ms := 39660000 } ∧
      combinedWith station214 ((passAt 39510000).selection station214).current = [215] := by decide

/-- The storm: the third report moves the Composer to FINAL_PASS, the fourth sets the late mark. -/
theorem test_storm :
    let p := passAt 0
    let c := { Composer.reset with st := .valid }.invalidate p
    let c3 := ((c.invalidate p).invalidate p).invalidate p
    (c.st, c3.st, c3.discard, (c3.invalidate p).late) = (.composing, .finalPass, 3, true) := by decide

/-! ## Panel Port (chapter 9, 9.7) -/

/-- Steps 1 and 5: the first offer starts a delivery with sequence 0; within the interval an offer waits. -/
theorem test_panel_offers :
    (PanelPort.reset.offer 5000000 false .programming).attemptSeq = 0 ∧
      (PanelPort.reset.offer 5000000 false .programming).st = .sending ∧
      ({ PanelPort.reset with interval := some 1100000 }.offer 5000000 false .programming).st = .idle := by decide

/-- Step 12: at the second timeout the newer plate stays in the slot. Steps 17 and 18: acknowledge and refresh of a fault
attempt. -/
theorem test_panel_fault :
    let p4 : Plate := .unassigned .blank 0
    let f := { PanelPort.reset with
      st := .awaitAck, retry := true, slot := some p4, delivery := some .programming, attemptSeq := 1, lastAck := 0 }.ackTimedOut
    let a := { f.startAttempt p4 with phase := some .awaitAck }.acked
    (f.st, f.slot, (f.startAttempt p4).attemptSeq) = (.fault, some p4, 1) ∧ (a.st, a.lastAck, a.refreshed.st) = (.fault, 1, .idle) := by
  decide

/-! ## Local Port (chapter 11, 11.8) -/

/-- Steps 1 and 3: a post goes into hand; READ STATUS is then turned away with BUSY naming it. -/
theorem test_post_busy :
    let t := after (.postSession [1, 7]) run
    (t.port.response, t.port.inHand, t.sessions.posting) = ([0x05, 0x05], some .postSession, some [7]) ∧
      (after (.readStatus []) t).port.response = [0x05, 0x01] := by decide

/-- Steps 5 and 6: NEXT-CHANGED returns the entry and clears its mark, so ATTN falls. -/
theorem test_nextChanged :
    let s := { run with
      port := { LocalPort.reset with inHand := some (.readSession 255), enables := 0x10000 }
      sessions := { SessionTable.reset with entries := [entry 4 (session 12 303 1 2 480 540 [300])], changed := [4] } }
    s.attn = some true ∧ (after .localPortSessionRead s).attn = some false ∧
      (after .localPortSessionRead s).port.response.take 3 = [0x00, 0x06, 4] := by decide

/-- R171: VERIFY WORD with the supply present, and without. -/
theorem test_verify :
    let s := { State.reset with mode := .program, straps := { run.straps with prog := true }, otp := [(3, 0x1234)] }
    (after (.verifyWord [3] true) s).port.response = [0x08, 0x0D] ∧
      (after (.verifyWord [3] false) s).port.response = [0x00, 0x0D, 3, 0x12, 0x34] := by decide

/-! ## Witnesses: the machine, start-up, and the Configuration Memory -/

/-- A station in START with a Configuration Memory. -/
def startWith (cells : List OtpCell) : State := { State.reset with otp := cells }

/-- A station in PROGRAM that takes requests. -/
def program : State :=
  { State.reset with mode := .program, straps := { lineRate := false, listenOnly := false, prog := true, portEn := true } }

/-- A program cycle of word 127 under way. -/
def cycling (lost : Bool) : State :=
  { program with
    otp := [(3, 0x1234)]
    cycle := some { addr := 127, pattern := 0x00FF, before := 0xFFFF, lost := lost, elapsed := 100 }
    port := { LocalPort.reset with inHand := some .programWord } }

/-- Both cases of an empty queue. -/
theorem test_witness_emptyQueue :
    let s := { run with dups := [{ source := 9, seq := 5, age := 2000000 }] }
    (State.reset.pending = [] ∧ ∀ c ∈ State.reset.ownEvents, State.reset.dueNow c = false) ∧
      s.pending = [] ∧ s.ownEvents = s.ownEvents.take 9 ++ .duplicateEntryExpiry :: s.ownEvents.drop 10 ∧
      (∀ d ∈ s.ownEvents.take 9, s.dueNow d = false) ∧ s.dueNow .duplicateEntryExpiry = true := by decide

theorem test_witness_onlyResetAndProgramming :
    Instr.pgmSupplyFall ≠ .resetNAssert ∧ Instr.pgmSupplyFall ≠ .programCycleEnd ∧
      exec .pgmSupplyFall program = .next (after .pgmSupplyFall program) := ⟨by decide, by decide, rfl⟩

/-- A cycle cut short by RESET_N. -/
theorem test_witness_resetAssert :
    run.cycle = none ∧ (cycling false).cycle.isSome = true ∧ otpWf (cycling false).otp = true := by decide

/-- A record for each outcome of START: the three reasons, ids 0, 4001 and 4000. -/
theorem test_witness_release :
    let sum (s : State) : Nat := ∑ i ∈ Finset.range 63, (otpRead s.otp i).toNat
    let zero := startWith [(0, 0), (62, 61), (63, 0)]
    let above := startWith [(0, 4001), (62, 61596), (63, 0)]
    let good := startWith [(0, 4000), (62, 61597), (63, 0)]
    (otpRead (startWith []).otp 63 ≠ 0 ∧ otpRead (startWith [(63, 0)]).otp 63 = 0 ∧
      sum (startWith [(63, 0)]) % 65536 ≠ 0) ∧
      (otpRead zero.otp 63 = 0 ∧ sum zero % 65536 = 0 ∧ (otpRead zero.otp 0).toNat = 0) ∧
      (sum above % 65536 = 0 ∧ 4000 < (otpRead above.otp 0).toNat) ∧
      (sum good % 65536 = 0 ∧ 1 ≤ (otpRead good.otp 0).toNat ∧ (otpRead good.otp 0).toNat ≤ 4000) ∧
      (good.mode = .start ∧ good.composer = Composer.reset ∧ good.panel = PanelPort.reset) := by decide +kernel

/-- A quiet station. -/
theorem test_quiet (cells : List OtpCell) : QuietOutsideRun (startWith cells) :=
  ⟨fun _ => ⟨rfl, rfl⟩, fun _ => ⟨rfl, rfl⟩, fun _ => ⟨rfl, rfl⟩, fun _ => rfl, fun _ => rfl, fun _ => rfl, fun _ => rfl,
    fun _ => rfl, fun _ => ⟨rfl, rfl⟩⟩

/-- In RUN nothing is asked of quiet. -/
theorem quietInRun {s : State} (h : s.mode = .run) : QuietOutsideRun s :=
  ⟨fun g => absurd h g, fun g => absurd h g, fun g => absurd h g, fun g => absurd h g, fun g => absurd h g,
    fun g => absurd h g, fun g => absurd h g, fun g => absurd h g, fun g => by rw [h] at g; cases g⟩

theorem test_witness_programCycleEnd :
    ((cycling false).cycle.map (·.lost), (cycling true).cycle.map (·.elapsed), otpWf (cycling true).otp) =
      (some false, some 100, true) := by decide

/-- R168: a reset keeps a locked array locked, and its words. -/
theorem test_reset_keeps_the_lock :
    let t := after .resetNAssert { program with otp := [(127, 0xFFFE)], locked := true }
    (t.locked, t.otp, t.mode) = (true, [(127, 0xFFFE)], .start) := by decide

theorem test_witness_programReady : PortReady .program program := ⟨rfl, rfl, rfl⟩

/-- The invariant of the Configuration Memory, with a cycle under way, over a step that ends it. -/
theorem test_witness_memory : MemoryOk (cycling false) ∧
    ∃ t, step { cycling false with pending := [.programCycleEnd] } = .next t :=
  ⟨⟨by decide, by decide, by decide, fun c h => by cases h; exact ⟨rfl, rfl, by decide, by decide⟩⟩, _, rfl⟩

/-! ## Witnesses: hall lines -/

/-- Line A as given, at station 214 in RUN. -/
def lineA (x : Line) : State := run.setLine .a x

/-- A line that is sending the bytes of a frame. -/
def sending (st : LineState) (collisions : Nat) (beacon : Bool) : Line :=
  { Line.reset with st := st, collisions := collisions, beaconCurrent := beacon, access := .sending [1, 2, 3] 46 }

/-- Each clause of the idle gap, at 12 bit-times exactly. -/
theorem test_witness_idleGap :
    let gap (access : Access) (due : Bool) : State :=
      lineA { Line.reset with idleTime := 12, access := access, beaconDue := due }
    (gap .rest false).hasWork .a = false ∧ (gap .rest true).hasWork .a = true ∧ 1 % 16 ≠ 0 ∧ 16 % 16 = 0 ∧
      (gap .rest true).running = true ∧ (gap .rest true).lineA.driverEnable = false ∧
      12 * (gap .rest true).bitTime ≤ (gap .rest true).lineA.idleTime ∧ (gap (.suspended 1) true).hasWork .a = true ∧
      (gap (.suspended 0) true).hasWork .a = true := by decide

/-- A line whose carrier is recorded, and one measured idle for less than 12 bit-times, in each phase of its access. -/
theorem test_witness_idleGap_passes :
    let gap (carrier : Bool) (access : Access) : State :=
      lineA { Line.reset with carrier := carrier, carrierTime := 7, idleTime := 5, access := access, beaconDue := true }
    (gap true .rest).running = true ∧ (gap true (.suspended 3)).lineA.driverEnable = false ∧ (gap false .rest).hasWork .a = true ∧
      (gap false (.counting 5 32)).lineA.driverEnable = false ∧ (lineA { Line.reset with carrier := true }).hasWork .a = false ∧
      1 % (gap true .rest).lineA.window ≠ 0 ∧ 16 % (gap true .rest).lineA.window = 0 := by decide

/-- R4: a count suspended by carrier resumes, with its slots kept, 12 bit-times after the line falls idle. -/
theorem test_count_resumes_after_carrier :
    let t := after (.lineIdleGap .a 0)
      (lineA { Line.reset with carrier := true, carrierTime := 90, access := .suspended 3, beaconDue := true })
    (t.lineA.access, t.lineA.carrier, t.lineA.idleTime, t.routes.clock) = (.counting 3 0, false, 12, 12) := by decide +kernel

theorem test_witness_lineBusy :
    let s := lineA { Line.reset with access := .counting 5 32 }
    let t := lineA { Line.reset with access := .counting 5 160, beaconDue := true }
    s.running = true ∧ 32 / s.slotTime < 5 ∧ 5 ≤ 160 / t.slotTime ∧ t.hasWork .a = true ∧ (lineA Line.reset).lineA.access = .rest := by
  decide

/-- A due beacon, and one that is current; a PENDING frame behind one that is SENT on line A; and a current frame. Each as well with
carrier on the line, and a line with no work. -/
theorem test_witness_backoffExpiry :
    let x : Line := { Line.reset with access := .counting 2 64 }
    let beacon := lineA { x with beaconDue := true }
    let sent : TxFrame := { queued 1 (.condition 1 0) with markA := .sent }
    let s := { lineA x with txQueue := [sent, queued 2 (.condition 2 0)] }
    let t := { lineA x with txQueue := [sent, { queued 2 (.condition 2 0) with curA := true }] }
    (beacon.running = true ∧ beacon.lineA.monitored = true ∧ 2 * beacon.slotTime ≤ 64 ∧ beacon.lineA.beaconDue = true ∧
      ∀ f ∈ beacon.txQueue, f.current .a = false) ∧
      ((lineA { x with beaconCurrent := true }).lineA.beaconCurrent = true ∧ (lineA x).hasWork .a = false ∧
        (lineA { x with carrier := true }).lineA.monitored = true) ∧
      ((∀ g ∈ s.txQueue, g.current .a = false) ∧ s.txQueue = [sent] ++ queued 2 (.condition 2 0) :: [] ∧
        (∀ g ∈ [sent], g.mark .a ≠ .pending) ∧ (queued 2 (.condition 2 0)).mark .a = .pending) ∧
      ((∀ g ∈ [sent], g.current .a = false) ∧ ∀ g ∈ t.txQueue.drop 1, g.current .a = true ∧ g.mark .a = .pending) := by decide

theorem test_witness_echoFailure :
    let s := lineA (sending .up 0 false)
    let t := lineA (sending .check 0 false)
    s.lineA.driverEnable = true ∧ s.lineA.st = .up ∧ t.lineA.driverEnable = true ∧ t.lineA.st = .check := by decide

/-- A collision below the eighth, and the eighth of a beacon and of a queued frame; a frame sent to its last bit. -/
theorem test_witness_collision_sent :
    let s (n : Nat) (beacon : Bool) := lineA (sending .up n beacon)
    (s 6 false).lineA.driverEnable = true ∧ (s 6 false).lineA.collisions < 7 ∧ 7 ≤ (s 7 true).lineA.collisions ∧
      (s 7 true).lineA.beaconCurrent = true ∧ (s 7 false).lineA.beaconCurrent = false ∧
      (16 + 10 * [1, 2, 3].length) * (s 0 true).bitTime ≤ 46 := by decide

theorem test_witness_stuck :
    let s := lineA { Line.reset with carrier := true, carrierTime := 10000 }
    let t := lineA { Line.reset with st := .stuck, idleTime := 50000 }
    (s.running = true ∧ s.lineA.monitored = true ∧ s.lineA.carrier = true ∧ 10000 * s.bitTime ≤ s.lineA.carrierTime) ∧
      t.lineA.st = .stuck ∧ t.lineA.carrier = false ∧ 50000 * t.bitTime ≤ t.lineA.idleTime := by decide

/-- CARRIER_STUCK while the station drives the line, and after a frame's end: at the limit, beyond it, and with nothing held. -/
theorem test_witness_stuck_driven_and_past_frame :
    let s := lineA { sending .up 0 false with carrier := true, carrierTime := 46 }
    let t (n : Option Nat) := lineA { Line.reset with pastFrame := n }
    (s.running = true ∧ s.lineA.access = .sending [1, 2, 3] 46 ∧ s.lineA.carrier = true ∧
      s.lineA.carrierTime < 10000 * s.bitTime) ∧
      ((t none).lineA.monitored = true ∧ (t none).lineA.driverEnable = false ∧ (t none).lineA.carrier = false ∧
        10000 ≤ 10000 * (t (some 10000)).bitTime ∧ 10000 * (t (some 10001)).bitTime < 10001) := by decide

/-- R13: the station's own transmission does not take the line to STUCK. -/
theorem test_own_carrier_is_not_stuck :
    (after (.carrierStuck .a) (after (.backoffExpiry .a)
      (lineA { Line.reset with beaconDue := true, access := .counting 0 0 }))).lineA.st = .up := by decide +kernel

/-- R13, R22: carrier that a frame's end has not broken goes on being measured: 4,000 bit-times before it and 6,000 after it. -/
theorem test_carrier_unbroken_past_a_frame :
    let s := after (.frameEnd .a (List.replicate 8 0))
      (lineA { Line.reset with carrier := true, carrierTime := 4000, rx := some { day := 0, ms := 0 } })
    let t := after (.carrierStuck .a) s
    (s.lineA.carrier, t.lineA.st, t.routes.clock - s.routes.clock) = (false, .stuck, 6000) := by decide +kernel

theorem test_witness_runReady : PortReady .run run := ⟨rfl, rfl, rfl⟩

/-- The five cases of an offer: LISTEN_ONLY, both lines DOWN, a replaceable CONDITION frame, a full queue and one with room. -/
theorem test_witness_offer :
    let down : Line := { Line.reset with st := .down }
    let old := queued 3 (.condition 1 0)
    let full : List TxFrame := (List.range 16).map fun i => queued i (.advert [])
    ((run.setLine .a down).setLine .b down).lineA.st = .down ∧ ((run.setLine .a down).setLine .b down).lineB.st = .down ∧
      run.straps.listenOnly = false ∧ run.mode = .run ∧ ¬(run.lineA.st = .down ∧ run.lineB.st = .down) ∧
      old.replaceable = true ∧ (∀ f ∈ full, f.replaceable = false) ∧ 16 ≤ full.length ∧ (full.drop 1).length < 16 := by decide

/-- A queue with a CONDITION frame and a step that sends it. -/
theorem test_witness_queue :
    let s := { lineA { Line.reset with access := .counting 0 0 } with txQueue := [queued 3 (.condition 1 0)] }
    QueueOk s ∧ ∃ t, step { s with pending := [.backoffExpiry .a] } = .next t :=
  ⟨⟨by decide, by decide, by decide⟩, _, rfl⟩

/-- A LISTEN_ONLY station in RUN, and a step of it. -/
theorem test_witness_listenOnly :
    let s := { run with straps := { run.straps with listenOnly := true }, pending := [.lineBusy .a] }
    QuietOutsideRun s ∧ ListenOnlySilent s ∧ ∃ t, step s = .next t :=
  ⟨quietInRun rfl, ⟨quietInRun rfl, fun _ => ⟨rfl, rfl⟩, fun _ => ⟨rfl, rfl, rfl⟩, fun _ => ⟨rfl, rfl, rfl⟩⟩, _, rfl⟩

/-! ## Witnesses: reception -/

/-- Station 214 with a frame being assembled on line A. -/
def receiving : State := lineA { Line.reset with carrier := true, rx := some { day := 2, ms := 1000 } }

/-- A CONDITION frame of a source. -/
def conditionBytes (source : Nat) : List Byte := frameBytes 4 0 source 5 [0, 0, 0, 1, 0, 0, 0, 0]

/-- The five ways a frame goes no further. -/
theorem test_witness_discards :
    let f (kind source : Nat) : RawFrame := { kind := kind, flags := 0, source := source, seq := 5, body := [] }
    parseFrame [1, 2, 3] = none ∧
      parseFrame (frameBytes 0 0 9 5 []) = some (f 0 9) ∧ parseFrame (frameBytes 5 0 9 5 []) = some (f 5 9) ∧
      parseFrame (frameBytes 1 0 214 5 []) = some (f 1 214) ∧ receiving.settings.stationId = 214 ∧
      parseFrame (frameBytes 4 0 9 5 []) = some (f 4 9) ∧ sortBody receiving.settings (f 4 9) = none ∧
      (DupEntry.mk 9 5 0).source = 9 := by decide +kernel

/-- A CONDITION frame that reaches the offer, and a refresh that gives way at 18. -/
theorem test_witness_offered :
    let f : RawFrame := { kind := 4, flags := 0, source := 9, seq := 5, body := [0, 0, 0, 1, 0, 0, 0, 0] }
    parseFrame (conditionBytes 9) = some f ∧ f.source ≠ receiving.settings.stationId ∧
      sortBody receiving.settings f = some (.condition 1 0) ∧
      sortBody receiving.settings { f with kind := 2, flags := 1, body := encodeRecord (session 12 301 3 2 570 660 [214]) } =
        some (.session (session 12 301 3 2 570 660 [214])) := by decide +kernel

theorem test_witness_delimiter :
    receiving.running = true ∧ receiving.lineA.driverEnable = false ∧ receiving.lineA.carrier = true ∧
      run.lineA.carrier = false ∧ run.lineA.driverEnable = false ∧ 2000000 ≤ (DupEntry.mk 9 5 2000000).age := by decide

/-- R27: whatever lets the time pass, an entry is a duplicate's below 2 s and gone at 2 s. -/
theorem test_duplicates_expire :
    let s := { run with dups := [DupEntry.mk 9 5 0, DupEntry.mk 9 6 1] }
    (s.elapse 1999999).dups = [DupEntry.mk 9 5 1999999] ∧ (s.elapse 2000000).dups = [] ∧
      dupHas 9 5 (s.elapse 1999999).dups = true ∧ (after .duplicateEntryExpiry s).dups = [] := by decide

/-- R28 to R31: filters in range; a foreign ADVERT, a faulty record, and a record whose rooms repeat. -/
theorem test_witness_accepted :
    let f (kind source : Nat) (body : List Byte) : RawFrame := { kind := kind, flags := 0, source := source, seq := 5, body := body }
    let twice := { session 12 301 3 2 570 660 [214, 7, 214] with title := [0x07] }
    (∀ g ∈ station73.filters, g.value < 1024 ∧ g.mask < 1024) ∧ sortBody station214 (f 3 9 []) = none ∧
      sortBody station214 (f 3 213 []) = some (.advert []) ∧ sortBody station214 (f 3 213 [1]) = none ∧
      sortBody station214 (f 2 9 (encodeRecord (session 12 301 3 2 660 660 [214]))) = none ∧
      sortBody station214 (f 2 9 (encodeRecord twice)) =
        some (.session { twice with rooms := [214, 7], title := [0x3F] }) := by decide +kernel

/-- 24 frames, 64 pairs and 15 samples, and a step. -/
theorem test_witness_reception :
    let s := { run with
      inbound := List.replicate 24 (heard 9 (.condition 1 0)), dups := List.replicate 64 (DupEntry.mk 9 5 0)
      time := { TimeUnit.reset with devs := (List.range 15).map fun i => (i + 1, 0) }, pending := [.conditionHandover] }
    ReceptionOk s ∧ ∃ t, step s = .next t := ⟨⟨by decide, by decide, by decide, by decide⟩, _, rfl⟩

/-- Records that are read back: NORMAL with every text, MOVED, WITHDRAWN. -/
theorem test_witness_records :
    let normal := { session 4000 65535 1 255 1439 1440 [1, 1023] with title := [0x41], track := some [0x20], speaker := some [] }
    let moved := { session 1 1 65535 0 0 1 [1] with status := .moved, movedTo := some 1023 }
    readRecord (encodeRecord normal) = some normal ∧ readRecord (encodeRecord moved) = some moved ∧
      readRecord (encodeRecord (tombstone 12 301 4 [214, 215])) = some (tombstone 12 301 4 [214, 215]) := by decide

/-- Frames and bodies that are read back. -/
theorem test_witness_frames :
    parseBeacon (encodeBody (.beacon 255 255 86399999 true)) = some (.beacon 255 255 86399999 true) ∧
      parseAdvert (encodeBody (.advert [{ room := 1023, any := finite 32000 31 65535, level := { cost := .closed 31, via := 0 } }]))
        = some [{ room := 1023, any := finite 32000 31 65535, level := { cost := .closed 31, via := 0 } }] := by decide

/-! ## Witnesses: conference time -/

/-- Station 214 with a beacon at the head of the Inbound Queue and a Time Unit. -/
def beaconAt (epoch : Nat) (t : TimeUnit) : State :=
  { run with
    time := t
    inbound := [{ heard 9 (.beacon epoch 2 39492400 false) with arrival := some { day := 0, ms := 0 } }] }

/-- The Time Unit in LOCKED on epoch 6. -/
def locked6 : TimeUnit := { TimeUnit.reset with sync := .locked, epoch := 6, roundTimer := some 8000000 }

/-- A Time Unit after reset with another sync state, epoch, list and out-of-band count is in range. -/
theorem test_clockOk : ClockOk locked6 ∧ ClockOk TimeUnit.reset ∧ ClockOk { locked6 with outBand := 2, devs := [(9, 3000)] } :=
  ⟨⟨by decide, by decide, by decide, by decide, by decide, by decide⟩,
    ⟨by decide, by decide, by decide, by decide, by decide, by decide⟩,
    ⟨by decide, by decide, by decide, by decide, by decide, by decide⟩⟩

/-- Stale, older (128 behind), the own epoch with the source known, new, and with 15 known. -/
theorem test_witness_beacons :
    let many : List (Nat × Int) := (List.range 15).map fun i => (i + 10, 0)
    (beaconAt 6 { locked6 with stale := 1 }).inbound.length = 1 ∧ (128 ≤ (134 + 256 - locked6.epoch % 256) % 256) ∧
      locked6.sync ≠ .free ∧ (∀ p ∈ many, p.1 ≠ 9) ∧ 15 ≤ many.length ∧ (many.drop 1).length < 15 ∧
      (1 ≤ (7 + 256 - locked6.epoch % 256) % 256 ∧ (133 + 256 - locked6.epoch % 256) % 256 ≤ 127) ∧
      TimeUnit.reset.sync = .free ∧ TimeUnit.reset.devs = [] := by decide

/-- Midpoints 2,000 and 2,001 at 8 s, and no sample. -/
theorem test_witness_roundEnd :
    locked6.roundTimer = some 8000000 ∧ trimmedMidpoint [2000] = 2000 ∧ trimmedMidpoint [2001] = 2001 ∧
      trimmedMidpoint [-2000] = -2000 ∧ locked6.devs = [] ∧ { locked6 with sync := .joining }.sync = .joining := by decide

theorem test_witness_midpoint :
    let ds : List Int := [-40, 12, 15, 90, 8]
    1 ≤ ds.length ∧ ds.length ≤ 15 ∧ [-40, 8, 12, 15, 90].Perm ds ∧ ([-40, 8, 12, 15, 90] : List Int).Pairwise (· ≤ ·) := by
  decide

theorem test_witness_beaconTimer :
    let s := { run with time := { locked6 with beaconTimer := some 2000000 } }
    s.time.beaconTimer = some 2000000 ∧ s.straps.listenOnly = false ∧ s.lineA.st = .up ∧ s.lineA.beaconCurrent = false := by
  decide

/-- A minute already crossed, and one to be reached. -/
theorem test_witness_minute :
    let t := { locked6 with ms := 60000 }
    t.sync ≠ .free ∧ t.ms / 60000 ≠ t.minuteGiven ∧ locked6.ms / 60000 = locked6.minuteGiven := by decide

/-- A ms of day of 86,399,999, and one above it. -/
theorem test_witness_setTime :
    val32 0x05 0x26 0x5B 0xFF = 86399999 ∧ val32 0x05 0x26 0x5C 0x00 = 86400000 ∧ PortReady .run run :=
  ⟨by decide, by decide, rfl, rfl, rfl⟩

theorem test_witness_clock : ClockOk locked6 ∧ ∃ t, step { run with time := locked6, pending := [.roundEnd] } = .next t :=
  ⟨test_clockOk.1, _, rfl⟩

/-! ## Witnesses: the Session Table -/

/-- Session 12/301 in a version. -/
def s301 (version : Nat) : SessionRecord := session 12 301 version 2 570 660 [214, 215]

/-- A table that holds 12/301 in version 3, in slot 4. -/
def held301 : SessionTable := { SessionTable.reset with entries := [entry 4 (s301 3)], changed := [4] }

/-- Station 214 with a table. -/
def holding (tb : SessionTable) : State := { run with sessions := tb }

/-- Sixty-four entries of a record's making. -/
def full64 (r : Nat → SessionRecord) : SessionTable :=
  { SessionTable.reset with entries := (List.range 64).map fun i => { entry i (r i) with arrival := i, expiry := some (i % 2) } }

theorem test_tableOk_held : TableOk held301 := ⟨by decide, by decide, by decide, by decide, by decide, by decide, by decide⟩

theorem test_tableOk_full : TableOk (full64 fun i => session 5 (i + 1) 1 2 570 660 [900]) :=
  ⟨by decide, by decide +kernel, by decide +kernel, by decide +kernel, by decide, by decide, by decide⟩

/-- An arrival time exists for any table, and of two merges at one reading the second takes the next µs. -/
theorem test_witness_arrival : ArrivalOf held301 1 ∧ ArrivalOf { held301 with clock := 7 } 7 ∧
    { held301 with clock := 0 }.arrivalNow = 1 :=
  ⟨⟨by decide, by decide, fun b _ h => h _ (List.mem_singleton.2 rfl)⟩, ⟨by decide, by decide, fun _ h _ => h⟩, by decide⟩

/-- A minute event with unknown time, behind a running pass, and one whose pass finds something to remove and one whose does not. -/
theorem test_minuteEvent :
    let p : HousekeepingPass := { day := 2, minute := 690, next := 4 }
    held301.minuteEvent false 2 690 = held301 ∧
      ({ held301 with running := some p, waiting := some (2, 690) }.minuteEvent true 2 691).waiting = some (2, 691) ∧
      (held301.minuteEvent true 2 690).running = some p ∧ (held301.minuteEvent true 2 689).running = none := by decide

/-- R38: the counter has come to 11:30, whose minute event is not yet given, when a round end takes it back by 40 ms: 690 and 689 are
both given, the second to wait behind the first one's pass. -/
theorem test_crossing_and_correction :
    let s := { holding held301 with
      time := { locked6 with day := 2, ms := 41400000, minuteGiven := 689, devs := [(9, -40)] } }
    let t := after .roundEnd s
    (t.time.ms, t.time.minuteGiven) = (41399960, 689) ∧
      t.sessions.running = some { day := 2, minute := 690, next := 4 } ∧ t.sessions.waiting = some (2, 689) := by decide

/-- R74: with its entry a request of the refresh scan is gone. -/
theorem test_removed_request :
    ({ held301 with refreshReqs := [(100, 4), (100, 5)] }.remove 4).refreshReqs = [(100, 5)] := by decide

/-- A new key beside 12/301. -/
theorem test_witness_insert :
    let s := { holding held301 with inbound := [heard 9 (.session (session 12 302 1 2 675 720 [214]))] }
    TableOk s.sessions ∧ s.sessions.entries.length < 64 ∧
      ∀ e ∈ s.sessions.entries, (e.record.publisher, e.record.number) ≠ (12, 302) :=
  ⟨test_tableOk_held, by decide, by decide⟩

/-- Each requester of the store waiting, in the arbiter's order, and none. -/
theorem test_witness_grants :
    let p : Pass := { known := true, moment := { day := 2, ms := 0 }, closed := 0, notice := 0, slots := [], routes := [] }
    let scan := holding { held301 with refreshReqs := [(100, 4)] }
    let house := holding { scan.sessions with running := some { day := 2, minute := 690, next := 4 } }
    let read := { house with port := { LocalPort.reset with inHand := some (.readSession 4) } }
    let compose := { read with composer := { Composer.reset with st := .composing, pass := some p } }
    let post := { compose with sessions := { compose.sessions with posting := some [] } }
    [run.grant, scan.grant, house.grant, read.grant, compose.grant, post.grant,
        { post with inbound := [heard 9 (.session (s301 3))] }.grant] =
      [none, some .refreshScan, some .housekeeping, some .portRead, some .composerRead, some .postingMerge,
        some .inboundMerge] := by decide

/-- Versions above, equal and below, the same content and other content. -/
theorem test_witness_versions :
    held301.entries = [] ++ entry 4 (s301 3) :: [] ∧ (s301 3).version < (s301 4).version ∧
      (s301 3).version = { s301 3 with plenary := true }.version ∧ { s301 3 with plenary := true } ≠ s301 3 ∧
      (s301 2).version < (s301 3).version := by decide

/-- A full table with a victim, without one, and with tombstones, expired and not. -/
theorem test_witness_full :
    let kept := full64 fun i => session 5 (i + 1) 1 2 570 660 [900]
    let dead (expiry : Nat) : SessionEntry := { entry 4 (tombstone 5 5 2 [900]) with expiry := some expiry }
    kept.entries.length = 64 ∧ (∀ e ∈ kept.entries, e.record.key ≠ (12, 301)) ∧
      kept.victim station214 TimeUnit.reset (tombstone 12 301 4 [214]) = none ∧
      (kept.victim station214 TimeUnit.reset (session 12 301 3 2 480 540 [214])).map (·.slot) = some 63 ∧
      (kept.victim station214 { locked6 with day := 2, ms := 39600000 } (tombstone 12 301 4 [214])).map (·.slot) = some 0 ∧
      ((full64 fun i => tombstone 5 (i + 1) 1 [900]).victim station214 TimeUnit.reset (s301 3)).map (·.slot) = some 0 ∧
      (dead 0).expired 0 = true ∧ (dead 1).expired 0 = false ∧ (dead 0).record.status = .withdrawn := by decide +kernel

/-- A post of a good record, of a faulty one, and each course of its merge. -/
theorem test_witness_post :
    let s := { holding { held301 with posting := some (encodeRecord (s301 4)) } with
      port := { LocalPort.reset with inHand := some .postSession } }
    let course (r : SessionRecord) : Course := (held301.merge station214 TimeUnit.reset r true).course
    readRecord [1, 2] = none ∧ readRecord (encodeRecord (s301 4)) = some (s301 4) ∧ s.inbound = [] ∧
      (course (s301 4), course (s301 3), course (s301 2), course (session 12 302 1 2 675 720 [214])) =
        (.replace, .hearing, .stale, .insert) ∧ s.takes (.session (s301 4)) = true ∧
      { s with mode := .program }.takes (.session (s301 4)) = false := by decide

/-- A record that a full table refuses. -/
theorem test_witness_post_refused :
    ((full64 fun i => session 5 (i + 1) 1 2 570 660 [900]).merge station214 TimeUnit.reset (tombstone 12 301 4 [214]) true).course =
      .refused := by decide +kernel

/-- The minute 690 is 30 min after the end of 12/301; a tombstone that has expired. -/
theorem test_witness_housekeeping :
    let s := holding { held301 with running := some { day := 2, minute := 690, next := 4 } }
    let t : SessionEntry := { entry 4 (tombstone 12 301 4 [214]) with expiry := some 0 }
    s.sessions.running = some { day := 2, minute := 690, next := 4 } ∧ s.grant = some .housekeeping ∧
      (entry 4 (s301 3)).record.endMin + 30 ≤ 690 ∧ { held301 with entries := [t] }.atSlot 4 = some t ∧
      t.expiry = some held301.clock := by decide

/-- A refresh due now, requested, and granted: still due, and no longer. -/
theorem test_witness_refresh :
    let e := { entry 4 (s301 3) with nextRefresh := some 100 }
    let tb := { held301 with entries := [e], clock := 100 }
    let s := holding { tb with refreshReqs := [(100, 4)] }
    tb.atSlot 4 = some e ∧ (∀ q ∈ tb.refreshReqs, q.2 ≠ 4) ∧ s.grant = some .refreshScan ∧ (∃ q ∈ s.sessions.refreshReqs, q.2 = 4) ∧
      e.refreshable s.settings s.sessions.clock = true ∧ (∀ n, { e with nextRefresh := some 101 }.nextRefresh = some n → 100 < n) :=
  ⟨by decide, by decide, by decide, by decide, by decide, fun n h => by cases h; decide⟩

/-- A Composer read, and the Local Port's reads of a held slot, an empty one, a marked entry, and none marked. -/
theorem test_witness_sessionReads :
    let p : Pass := { known := true, moment := { day := 2, ms := 0 }, closed := 0, notice := 0, slots := [], routes := [] }
    let c := { holding held301 with composer := { Composer.reset with st := .composing, pass := some p } }
    let r (i : Nat) := { holding held301 with port := { LocalPort.reset with inHand := some (.readSession i) } }
    c.grant = some .composerRead ∧ (r 63).grant = some .portRead ∧ (r 255).grant = some .portRead ∧
      held301.atSlot 4 = some (entry 4 (s301 3)) ∧ held301.atSlot 63 = none ∧ held301.changed = 4 :: [] ∧
      SessionTable.reset.changed = [] := by decide

theorem test_witness_table :
    TableOk held301 ∧ ∃ t, step { holding held301 with pending := [.localPortSessionRead] } = .next t :=
  ⟨test_tableOk_held, _, rfl⟩

/-! ## Witnesses: routes -/

/-- Station 214 with an entry for room 300. -/
def routing : State := { run with routes := { RouteEngine.reset with entries := [room300] } }

theorem test_witness_ranks :
    Cost.better (.finite 650 3) (.finite 650 4) = true ∧ Cost.better (.finite 650 4) (.closed 1) = true := by decide

/-- The home room, another room with links in order, and one with no link. -/
theorem test_witness_best :
    station214.homeRoom ≠ 0 ∧ room300.room ≠ station214.homeRoom ∧
      (station214.links.map (·.index)).Pairwise (· < ·) ∧ station214.links ≠ [] ∧ Settings.reset.homeRoom = 0 ∧
      Settings.reset.links = [] := by decide

/-- Reconciliation that gives the ANY profile the LEVEL route, and one that does not. -/
theorem test_witness_reconcile :
    let x := { room300 with stored := [{ link := 1, any := finite 660 4 214, level := finite 720 5 88, heard := 0 }] }
    (x.selected station214 0 true).cost.better (x.selected station214 0 false).cost = true ∧
      (room300.selected station214 0 true).cost.better (room300.selected station214 0 false).cost = false := by decide

theorem test_witness_levelBelowAny :
    LevelBelowAny routing ∧ ∃ t, step { routing with pending := [.sweep] } = .next t :=
  ⟨by unfold LevelBelowAny; decide, _, rfl⟩

theorem test_witness_advertised :
    (∀ k ∈ station214.links, k.neighbour ≠ 214) ∧ (station214.links.map (·.index)).Nodup ∧ zoneSet 0 6 = false := by decide

theorem test_witness_displayed :
    let v (c : Cost) : RouteView := { (RouteEngine.reset.view station214 300) with any := { cost := c, link := some 0 } }
    (v (.finite 0 0)).any.cost = .finite 0 0 ∧ (v (.finite 5 1)).any.cost = .finite 5 1 ∧
      (v .unknown).any.cost ≠ .finite 0 0 := by decide

/-- A hand-over and each of the jobs, each the one to be done; a read that waits; a job in hand; nothing waiting. -/
theorem test_witness_jobs :
    let with_ (e : RouteEngine) : State := { run with routes := e }
    let advert : AdvertJob := { source := 213, entries := [], heard := 0 }
    { run with inbound := [heard 213 (.advert [])] }.routes.advertJob = none ∧
      (with_ { RouteEngine.reset with advertJob := some advert, sweepJob := true }).nextJob = some .advert ∧
      (with_ { RouteEngine.reset with conditionJob := true, pinJob := some [300] }).nextJob = some .condition ∧
      (with_ { RouteEngine.reset with pinJob := some [300], advertJob := some advert }).nextJob = some .pins ∧
      (with_ { RouteEngine.reset with sweepJob := true }).nextJob = some .sweep ∧ run.nextJob = none ∧
      { with_ { RouteEngine.reset with sweepJob := true } with
        port := { LocalPort.reset with inHand := some (.readRoute 300) } }.nextJob = none ∧
      (with_ { RouteEngine.reset with
        inHand := some { job := .sweep, left := [.create 300] }, conditionJob := true }).nextJob = some .sweep := by decide

/-- R101, R117: an advert job stands between its two entries, and a READ ROUTE is answered there. -/
theorem test_read_between_entries :
    let a (room : Nat) : AdvertEntry := { room := room, any := finite 610 3 90, level := finite 610 3 90 }
    let s := { run with
      routes := { RouteEngine.reset with advertJob := some { source := 213, entries := [a 300, a 301], heard := 0 } } }
    let own (s : State) : State := match step s with | .next t => t | .fault _ => s | .refused _ => s
    let t := own s
    let u := after .localPortRouteRead (after (.readRoute [1, 44]) t)
    (t.routes.inHand.map (·.left.length), t.routes.rooms, t.routes.holdsAdvert) = (some 1, [300], true) ∧
      u.port.response.take 4 = [0x00, 0x07, 1, 44] ∧ u.routes = t.routes ∧
      (after .advertJob u).routes.rooms = [300, 301] ∧ (after .advertJob u).routes.inHand = none := by
  decide +kernel

/-- An advert entry for room 300 from station 213 that changes a best, and one that does not. -/
theorem test_witness_advertEntry :
    let a : AdvertEntry := { room := 300, any := finite 610 3 90, level := finite 610 3 90 }
    let y := storeValues station214 213 5 a room300
    (routing.routes.entries.map (·.room)).Pairwise (· < ·) ∧ routing.routes.entry a.room = some room300 ∧
      (station214.links.map (·.index)).Nodup ∧ (room300.stored.map (·.link)).Nodup ∧
      ¬((y.recomputed station214 0).any = room300.any ∧ (y.recomputed station214 0).level = room300.level) ∧
      routing.routes.entry 301 = none ∧ routing.routes.entries.length < 256 := by decide

/-- A Route Table of 256 unpinned entries. -/
def fullTable : RouteEngine :=
  { RouteEngine.reset with entries := (List.range 256).map fun i => { room300 with room := i + 1, pinned := false } }

/-- Its victim is room 256, which has the worst rank, the lowest change count and the highest number; an arriving finite value is
better than its UNKNOWN best and an UNKNOWN one is not; station 213 is served by a link. -/
theorem test_witness_fullTable :
    (fullTable.entries.map (·.room)).Pairwise (· < ·) ∧ 256 ≤ fullTable.entries.length ∧ fullTable.entry 300 = none ∧
      fullTable.victim.map (·.room) = some 256 ∧ (∃ k ∈ station214.links, k.neighbour = 213) ∧
      (candidate station214 0 false (link 40 false) (some (finite 610 3 90))).cost.better .unknown = true ∧
      Cost.better .unknown .unknown = false := by decide +kernel

theorem test_witness_victim :
    let x := { room300 with pinned := false }
    let y := { x with room := 301 }
    VictimOf { RouteEngine.reset with entries := [x, y] } y :=
  ⟨by decide, by decide, by decide⟩

/-- An own zone that closes with a finite best, and values heard 100 s ago. -/
theorem test_witness_conditions_sweep :
    let e := routing.routes
    (e.entries.map (·.room)).Pairwise (· < ·) ∧ (0x40#32).getLsbD station214.zone ≠ e.kept.getLsbD station214.zone ∧
      e.inHand = none ∧ (∀ r ∈ e.pinSet, ∃ x ∈ e.entries, x.room = r ∧ x.pinned = true) ∧
      ∃ v ∈ room300.stored, v.heard + 100000000 ≤ ({ e with clock := 100000000 } : RouteEngine).clock := by decide

/-- A sweep at 100 s: of room 300 the pinned entry stays without values, of room 301 the unpinned one goes. -/
theorem test_sweep :
    let e := { RouteEngine.reset with entries := [room300, { room300 with room := 301, pinned := false }], clock := 100000000, sweepJob := true }
    let o := e.doJob station214 0 .sweep none
    (o.eng.entries.map fun x => (x.room, x.stored.length)) = [(300, 0)] ∧ o.reports.map (·.room) = [301] := by decide

/-- One entry judged anew, changed and unchanged, in a table that has another room without an entry; aged with values lost and none,
changed and unchanged; and an unpinned entry whose links hold nothing. -/
theorem test_witness_entry_operations :
    let e := routing.routes
    let y := room300.recomputed station214 0
    let old : RouteEntry := { room300 with stored := room300.stored.filter fun v => decide (100000000 < v.heard + 100000000) }
    (e.entries.map (·.room)).Pairwise (· < ·) ∧ e.entry 300 = some room300 ∧ e.entry 301 = none ∧
      ¬(y.any = room300.any ∧ y.level = room300.level) ∧
      ((y.recomputed station214 0).any = y.any ∧ (y.recomputed station214 0).level = y.level) ∧
      (∃ v ∈ room300.stored, v.heard + 100000000 ≤ 100000000) ∧ (∀ v ∈ room300.stored, ¬v.heard + 100000000 ≤ 99999999) ∧
      ((old.recomputed station214 0).any = room300.any ∧ (old.recomputed station214 0).level = room300.level) ∧
      ¬((old.recomputed station214 0).any = y.any ∧ (old.recomputed station214 0).level = y.level) ∧
      ({ old with pinned := false }).dead station214 = true := by decide

/-- R106, R107, R115: a condition recomputation of room 300 as chapter 5 has it (5.10, step 1): one change, told once. -/
theorem test_condition_recomputation_tells :
    let o := { routing.routes with conditionJob := true, clock := 7 }.doJob station214 0 .condition none
    (o.eng.entries.map (·.changeCount), o.eng.promptSet, o.eng.promptAt, o.reports) =
      ([1], [300], some 1000007,
        [.changed 300 { cost := .finite 270 2, link := some 2 } { cost := .finite 650 4, link := some 0 }]) := by decide

/-- R108, R109: a sweep of an unpinned entry with a known best that loses its values: the change to UNKNOWN is told, then the removal. -/
theorem test_sweep_tells :
    let known := { room300.recomputed station214 0 with pinned := false }
    let o := { RouteEngine.reset with entries := [known], clock := 100000000, sweepJob := true }.doJob station214 0 .sweep none
    (o.eng.entries, o.eng.promptSet, o.reports) =
      ([], [300], [.changed 300 Best.unknown Best.unknown, .removed 300]) := by decide

/-- A prompt frame due, a round frame due, and a round frame to be tried again, with a queue that takes and one that does not. -/
theorem test_witness_frames_built :
    let e := { routing.routes with entries := [{ room300 with any := { cost := .finite 270 2, link := some 2 } }] }
    let with_ (e : RouteEngine) : State := { run with routes := e }
    let full (s : State) : State := { s with txQueue := (List.range 16).map fun i => queued i (.condition 1 0) }
    (with_ { e with promptDue := true, promptSet := [300] }).nextJob = some .frames ∧
      (with_ { e with round := .due }).nextJob = some .frames ∧ e.promptSet = [] ∧ e.roundRooms = [300] ∧
      ({ e with round := .retryAt 0 } : RouteEngine).retryWait = some 0 ∧ (with_ e).takes (.advert []) = true ∧
      (full (with_ e)).takes (.advert []) = false ∧ { e with cursor := 301, round := .due }.roundRooms = [] ∧
      (with_ { e with round := .due, sweepJob := true, conditionJob := true }).nextJob = some .condition := by decide

theorem test_witness_routeTimers :
    let e := { routing.routes with nextSweep := some 7, nextRound := some 7, promptAt := some 7, promptSet := [300], clock := 7 }
    (e.nextSweep, e.nextRound, e.promptAt) = (some 7, some 7, some 7) ∧ 7 ≤ e.clock ∧ e.promptSet ≠ [] := by decide

/-- A pass that has read every slot and lists C in room 300; READ ROUTE of a room with an entry and of one without. -/
theorem test_witness_routeReads :
    let p := { passAt 39600000 with slots := (passAt 39600000).slots ++ List.replicate 60 none }
    let s (room : Nat) := { routing with port := { LocalPort.reset with inHand := some (.readRoute room) } }
    p.wantsRoute station214 = some 300 ∧ (s 300).composerWantsRoute = none ∧ (s 300).routes.entry 300 = some room300 ∧
      (s 301).routes.entry 301 = none := by decide +kernel

theorem test_witness_routes :
    RoutesOk routing ∧ ∃ t, step { routing with pending := [.promptDue] } = .next t :=
  ⟨⟨quietInRun rfl, by decide, by decide, by decide, by decide, (fun _ h => (by cases h)), (fun _ h => (by cases h))⟩, _, rfl⟩

/-! ## Witnesses: zone conditions -/

/-- A known source, a free place, a zero contribution in a full list, and none. -/
theorem test_witness_place :
    let s := { run with zones := fullList, inbound := [heard 99 (.condition 0x1000 0)] }
    let z := (fullList.handle 99 0x1000 0).list
    (∃ c ∈ fullList.contributions, c.source = 41) ∧ (∀ c ∈ s.zones.contributions, c.source ≠ 99) ∧
      ConditionList.reset.contributions.length < 16 ∧ 16 ≤ fullList.contributions.length ∧
      (fullList.contributions.head?.map (·.zero)) = some true ∧
      (∀ c ∈ fullList.contributions.drop 1, c.source ≠ 41) ∧ 16 ≤ z.contributions.length ∧
      (∀ c ∈ (z.handle 98 0x2000 0).list.contributions, ¬(c.closed = 0 ∧ c.notice = 0)) := by decide

theorem test_witness_hearing : HearingOf fullList 500000000 ∧
    HearingOf { fullList with contributions := [] ++ fullList.contributions.drop 1 } 500000000 :=
  ⟨⟨by decide, by decide, fun _ h _ => h⟩, by decide, by decide, fun _ h _ => h⟩

/-- A CLOSED that concerns station 214 (zone 9 is a neighbour's), one that does not, and an unchanged pair. -/
theorem test_witness_concerns :
    changeConcerns station214 0x200 0 = true ∧ changeConcerns station214 0x100000 0 = false ∧
      ConditionList.reset.closedOr = ConditionList.reset.aggClosed := by decide

/-- A contribution at 30 s, a spill record at 30 s, a pending own frame at its retry, and a resend. -/
theorem test_witness_zoneTimers :
    let c : Contribution := { source := 60, closed := 0x100000, notice := 0, heard := 490000000 }
    let z := { ConditionList.reset with
      contributions := [c], clock := 520000000, spillAt := some 490000000, ownPending := true, retryAt := some 520000000
      resendAt := some 520000000 }
    z.contributions = [] ++ c :: [] ∧ c.heard + 30000000 ≤ z.clock ∧ 490000000 + 30000000 ≤ z.clock ∧ z.ownPending = true ∧
      z.retryAt = some 520000000 ∧ run.takes (.condition 1 0) = true ∧
      { run with straps := { run.straps with listenOnly := true } }.takes (.condition 1 0) = false := by decide

/-- The list of one contribution, aggregated. -/
theorem test_witness_zones :
    let z := { ConditionList.reset with
      contributions := [{ source := 60, closed := 0x100000, notice := 0, heard := 0 }], aggClosed := 0x100000 }
    ZonesOk z ∧ ∃ t, step { run with zones := z, pending := [.contributionExpiry 60] } = .next t :=
  ⟨⟨by decide, by decide, by decide, fun _ => ⟨rfl, rfl⟩, by decide, by decide⟩, _, rfl⟩

/-! ## Witnesses: plate composition -/

/-- A cache whose valid-until time is 10:59 on day 2. -/
def cached : Cache := { (passAt 39510000).cache station214 with validUntil := some { day := 2, ms := 39540000 } }

/-- The five states an invalidating event meets, and a valid-until time reached exactly. -/
theorem test_witness_invalidate :
    let s := { run with
      time := { TimeUnit.reset with sync := .locked, day := 2, ms := 39540000 }
      composer := { Composer.reset with st := .valid, cache := some cached } }
    s.running = true ∧ s.composer.st = .valid ∧ cached.validUntilReached = false ∧
      s.time.stamp.atOrPast { day := 2, ms := 39540000 } = true ∧ Composer.reset.st = .idle := by decide

/-- A report on 12/301, one on a directory room, a route change of a room read, and own-zone bits that differ; and what an event of the
Time Unit that reaches the valid-until time, gives a minute event and reports a step comes to: two of the three. -/
theorem test_invalidates :
    let c := { Composer.reset with st := .valid, cache := some { cached with rooms := [300] } }
    let other : SessionReport := { key := (9, 9), before := none, after := some ([300], false) }
    let now := passAt 39540000
    c.hitBySession station214 { other with key := (12, 301), after := none } = true ∧ c.hitBySession station214 other = true ∧
      c.hitBySession station214 { other with after := some ([7], false) } = false ∧ c.hitByRoute 300 = true ∧
      c.hitByZones station214 0x40 0 = true ∧ c.hitByZones station214 0x20 0 = false ∧
      c.hitByMinute { day := 2, ms := 39479999 } = true ∧ c.hitByMinute { day := 2, ms := 39480000 } = false ∧
      ((c.onTime true true true now).st, (c.onTime true true true now).discard) = (.composing, 1) ∧
      (c.onTime false true false now).st = .valid := by decide

/-- R146: a running pass is hit by an own-zone bit that has changed since its start, at a station without a section too. -/
theorem test_zones_hit_any_pass :
    let c := { Composer.reset with st := .composing, pass := some (passAt 0) }
    c.hitByZones Settings.reset 1 0 = true ∧ c.hitByZones Settings.reset 2 0 = false := by decide

/-- A pass that has made its reads, before and at its valid-until time. -/
theorem test_witness_passEnd :
    let p := { passAt 39510000 with slots := (passAt 39510000).slots ++ List.replicate 60 none }
    let at_ (ms : Nat) : Stamp := { day := 2, ms := ms }
    p.complete station214 = true ∧ p.known = true ∧ station214.homeRoom ≠ 0 ∧
      p.routes.map (·.room) = (p.selection station214).partRooms ∧ (p.validUntil station214).any (at_ 39510001).atOrPast = false ∧
      (p.validUntil station214).any (at_ 39540000).atOrPast = true := by decide +kernel

/-- Of nine sessions of room 300 the directory lists the first eight, by start and then by the lower key; a PLENARY session counts for
the directory scope, and so for the valid-until time, of a station without a directory section, but is not listed there. -/
theorem test_directory :
    let p := { passAt 39510000 with slots := (List.range 9).map fun i => seen i (session 5 (9 - i) 1 2 (if i = 8 then 600 else 630) 750 [300]) }
    let q := { passAt 39510000 with slots := [seen 0 { session 5 40 2 2 659 750 [7] with plenary := true }] }
    (p.selection station214).directory.map (·.number) = [1, 2, 3, 4, 5, 6, 7, 8] ∧
      (q.selection { station214 with directory := [] }).directory = [] ∧
      q.validUntil { station214 with directory := [] } = some { day := 2, ms := 39540000 } := by decide +kernel

theorem test_witness_selection :
    (passAt 39510000).reads station214 = true ∧ (passAt 39510000).moment.day < 256 ∧
      (passAt 39510000).moment.ms < 86400000 := by decide

/-- COMPOSING with its pass, and a step of it. -/
theorem test_witness_composer :
    let s := { run with composer := { Composer.reset with st := .composing, pass := some (passAt 0) } }
    ComposerOk s ∧ ∃ t, step { s with pending := [.passEnd] } = .next t :=
  ⟨⟨quietInRun rfl, by decide, by decide, by decide, by decide⟩, _, rfl⟩

/-! ## Witnesses: Panel Port -/

/-- Station 214 with a Panel Port. -/
def panel (p : PanelPort) : State := { run with panel := p }

/-- A pending plate in IDLE with the interval of 5 s passed exactly. -/
theorem test_witness_delivery :
    let p := { PanelPort.reset with slot := some .programming, interval := some 5000000 }
    p.st = .idle ∧ p.slot = some .programming ∧ p.interval = some 5000000 ∧ station214.panelInterval * 1000000 ≤ 5000000 ∧
      { p with interval := some 4999999 }.passed station214.intervalTime = false ∧ PanelPort.reset.slot = none := by
  decide

/-- A plate clocked out to its last bit; AWAIT_ACK, REFRESHING and a fault attempt's phases. -/
theorem test_witness_ack :
    1 ≤ station214.panelInterval ∧ 80 * (encodePlate 0 .programming).length ≤ 400 ∧
      { PanelPort.reset with st := .awaitAck }.isAwaiting = true ∧
      { PanelPort.reset with st := .fault, phase := some .awaitAck }.isAwaiting = true ∧
      { PanelPort.reset with st := .refreshing }.isRefreshing = true ∧
      { PanelPort.reset with st := .fault, phase := some .refreshing }.isRefreshing = true ∧ PanelPort.reset.isAwaiting = false ∧
      PanelPort.reset.isRefreshing = false := by decide

/-- Timers at 500 ms, 10 s and 30 s. -/
theorem test_witness_panelTimers :
    let p := { PanelPort.reset with
      st := .fault, slot := some .programming, ackTimer := some 500000, busyTimer := some 10000000
      faultTimer := some 30000000, faultDue := true }
    (p.ackTimer, p.busyTimer, p.faultTimer, p.st, p.slot, p.faultDue) =
      (some 500000, some 10000000, some 30000000, .fault, some .programming, true) := by decide

/-- A panel that is sending its first plate, and a step of it. -/
theorem test_witness_panel :
    let s := panel { PanelPort.reset with st := .sending, delivery := some .programming, clocked := some 560 }
    PanelOk s ∧ ∃ t, step { s with pending := [.plateClockedOut] } = .next t :=
  ⟨⟨quietInRun rfl, fun _ => by decide, by decide, by decide, by decide, by decide⟩, _, rfl⟩

/-! ## Witnesses: Local Port -/

/-- Each way a request is turned away. -/
theorem test_witness_turnedAway :
    requestCode (.postSession []) = some 0x05 ∧ State.reset.straps.portEn = false ∧
      { run with port := { LocalPort.reset with inHand := some .programWord } }.port.inHand.isSome = true ∧
      { run with mode := .start }.mode = .start ∧ bodyShort (.postSession []) ∧ bodyShort (.ackNotices [1]) ∧
      ¬bodyShort (.ackNotices [1, 2]) ∧ ¬allowedIn (.ackNotices [1, 2]) .program :=
  ⟨by decide, by decide, by decide, by decide, .inl rfl, by unfold bodyShort; decide, by unfold bodyShort; decide,
    by unfold allowedIn; decide⟩

/-- R172: SDO past the end of the response, and not driven with CS_N high; nineteen bits on SDI are two bytes, which come to ACK NOTICES; the
no-request code takes no request. -/
theorem test_transaction :
    let bits (b : Byte) : List Bool := (List.range 8).map fun i => b.getMsbD i
    run.sdo true 3 = some [0x00, 0x00, 0x00] ∧ run.sdo false 3 = none ∧ State.reset.sdo true 3 = none ∧
      wholeBytes (bits 0x02 ++ bits 0x81 ++ [true, true, true]) = [0x02, 0x81] ∧
      transaction false [0x02, 0x81] = some (.ackNotices [0x81]) ∧ transaction false [0x00, 0x81] = none ∧
      transaction true [0x06, 0xFF] = some (.readSessionNextChanged [0xFF]) ∧
      transaction true [0x0C, 1] = some (.programWord [1] true) := by decide

/-- READ PLATE with a cache and without; an index of 63, 64 and 254; a record of 255 bytes. -/
theorem test_witness_requests :
    ({ run with composer := { Composer.reset with cache := some cached } }.composer.cache.isSome, run.composer.cache) =
      (true, none) ∧ (63#8).toNat < 64 ∧ 64 ≤ (64#8).toNat ∧ (254#8).toNat ≠ 255 ∧
      (List.replicate 255 (0 : Byte)).length < 256 ∧ 13 < (14#8).toNat ∧ run.mode ≠ .start := by decide +kernel

/-- ATTN's three conditions, each on its own. -/
theorem test_attn :
    let s := { run with
      sessions := { SessionTable.reset with changed := [4] }, port := { LocalPort.reset with notices := 2, delivered := true } }
    let on (e : BitVec 18) : Option Bool := { s with port := { s.port with enables := e } }.attn
    (on 0, on 2, on 4, on 0x10000, on 0x20000) = (some false, some true, some false, some true, some true) := by decide

/-- A post in hand, and a step of it. -/
theorem test_witness_port :
    let s := { holding { SessionTable.reset with posting := some [1] } with
      port := { LocalPort.reset with inHand := some .postSession } }
    PortOk s ∧ ∃ t, step { s with pending := [.postingBufferMerge] } = .next t :=
  ⟨⟨by decide, by decide⟩, _, rfl⟩

end Sys2Proof.Tests
end

section
/-!
PROOFS. What a command can do to the lines, the Transmit Queue, the stores of Reception and the clock, said once: every command but the
two of RESET_N is a chain of the parts listed in `CorePart`. An invariant of these blocks is then shown part by part.
-/

namespace Sys2Proof.Machine

/-! ## The parts of a command -/

/-- The blocks that the statements of chapters 1 to 3 speak of, everything else at its reset value. -/
def State.core (s : State) : State :=
  { State.reset with
    mode := s.mode, straps := s.straps, lineA := s.lineA, lineB := s.lineB, txQueue := s.txQueue, ownSeq := s.ownSeq
    dups := s.dups, inbound := s.inbound, time := s.time }

/-- A queue of frames that each have a mark PENDING becomes one of no more such frames, and of no more CONDITION frames not started. -/
structure Thinned (q q' : List TxFrame) : Prop where
  length : q'.length ≤ q.length
  live : (∀ f ∈ q, f.live = true) → ∀ f ∈ q', f.live = true
  conditions : q'.countP TxFrame.replaceable ≤ q.countP TxFrame.replaceable

/-- A change of a line that begins nothing: no beacon falls due or becomes current, and the driver is not asserted. -/
structure BeginsNothing (x y : Line) : Prop where
  beaconDue : x.beaconDue = false → y.beaconDue = false
  beaconCurrent : x.beaconCurrent = false → y.beaconCurrent = false
  driver : x.driverEnable = false → y.driverEnable = false

/-- A change of the Time Unit that keeps the clock and the deviation list in their bounds. -/
structure KeepsClock (a b : TimeUnit) : Prop where
  clock : ClockOk a → ClockOk b
  devs : a.devs.length ≤ 15 → b.devs.length ≤ 15

/-- One part of what a command does. -/
inductive CorePart : State → State → Prop
  | side {s t : State} (h : t.core = s.core) : CorePart s t
  | elapse (n : Nat) (s : State) : CorePart s (s.elapse n)
  | offer (b : Body) (refresh prompt : Bool) (s : State) : CorePart s (s.offer b refresh prompt)
  | beacon (s : State) : CorePart s s.beaconIndication
  | line {l : LineId} {s : State} {y : Line} (h : BeginsNothing (s.line l) y) : CorePart s (s.setLine l y)
  | choose (l : LineId) (s : State) : CorePart s (s.choose l)
  | transmit {l : LineId} {s : State} (h : s.hasWork l = true) : CorePart s (s.transmit l)
  | thin {s : State} {q : List TxFrame} (h : Thinned s.txQueue q) : CorePart s (s.withQueue q)
  | handOver {s : State} {f : InFrame} {rest : List InFrame} (h : s.inbound = f :: rest) : CorePart s { s with inbound := rest }
  | arrive (f : InFrame) (s : State) : CorePart s (s.inboundOffer f)
  | remember (source seq : Nat) (s : State) : CorePart s { s with dups := dupInsert source seq s.dups }
  | forget (s : State) : CorePart s { s with dups := s.dups.filter DupEntry.young }
  | clock {s : State} {u : TimeUnit} (h : KeepsClock s.time u) : CorePart s { s with time := u }
  | restart (s : State) : CorePart s s.restartLines

/-- Parts one after the other. -/
def CorePath (s t : State) : Prop := Relation.ReflTransGen CorePart s t

theorem CorePart.path {s t : State} (h : CorePart s t) : CorePath s t := Relation.ReflTransGen.single h

theorem CorePath.refl (s : State) : CorePath s s := Relation.ReflTransGen.refl

theorem CorePath.trans {s t u : State} (h : CorePath s t) (k : CorePath t u) : CorePath s u :=
  Relation.ReflTransGen.trans h k

/-- What every part keeps, a chain of parts keeps. -/
theorem CorePath.keeps {p : State → Prop} (part : ∀ {s t}, CorePart s t → p s → p t) {s t : State} (h : CorePath s t)
    (hs : p s) : p t := by
  induction h with
  | refl => exact hs
  | tail _ hp ih => exact part hp ih

/-- A change outside the core. -/
theorem CorePath.side {s t : State} (h : t.core = s.core) : CorePath s t := (CorePart.side h).path

theorem CorePath.line {l : LineId} {s : State} {y : Line} (h : BeginsNothing (s.line l) y) : CorePath s (s.setLine l y) :=
  (CorePart.line h).path

theorem CorePath.after {f : State → State} (h : ∀ s, CorePath s (f s)) (w : Option Nat) (s : State) :
    CorePath s (s.after w f) := by
  cases w with
  | none => exact .refl s
  | some n => exact (CorePart.elapse n s).path.trans (h _)

theorem CorePath.request {code : Nat} {ok : Bool} {allowed : Mode → Bool} {act : State → State} {s : State}
    (h : CorePath s (act s)) : CorePath s (s.request code ok allowed act) := by
  rcases State.request_cases code ok allowed act s with e | ⟨st, e⟩ | ⟨-, -, -, -, -, e⟩
  · exact .side (by rw [e])
  · exact .side (by rw [e]; rfl)
  · exact e ▸ h

theorem CorePath.answer {s t : State} (h : CorePath s t) (st : ReqStatus) (code : Nat) (data : List Byte) :
    CorePath s (t.answer st code data) := h.trans (.side rfl)

/-! ## The Time Unit -/

theorem KeepsClock.refl (t : TimeUnit) : KeepsClock t t := ⟨id, id⟩

theorem KeepsClock.trans {a b c : TimeUnit} (h : KeepsClock a b) (k : KeepsClock b c) : KeepsClock a c :=
  ⟨fun x => k.clock (h.clock x), fun x => k.devs (h.devs x)⟩

/-- The counter at any number of units lies in its ranges (R37). -/
theorem KeepsClock.setUnits (u : Nat) (t : TimeUnit) : KeepsClock t (t.setUnits u) := by
  have hms : u / msUnits % dayMs < dayMs := Nat.mod_lt _ (by unfold dayMs; omega)
  have hfrac : u % msUnits < msUnits := Nat.mod_lt _ (by unfold msUnits; omega)
  exact ⟨fun h => ⟨Nat.mod_lt _ (Nat.zero_lt_succ _), hms, hfrac, h.trim, h.missed, h.outBand⟩, id⟩

theorem KeepsClock.advance (n : Nat) (t : TimeUnit) : KeepsClock t (t.advance n) := by
  unfold TimeUnit.advance
  split
  · exact .refl t
  · exact .setUnits _ t

theorem KeepsClock.elapse (n : Nat) (t : TimeUnit) : KeepsClock t (t.elapse n) :=
  (KeepsClock.advance n t).trans ⟨fun ⟨h1, h2, h3, h4, h5, h6⟩ => ⟨h1, h2, h3, h4, h5, h6⟩, id⟩

/-- R39: a moved counter is a reading in range. -/
theorem KeepsClock.adjust (d : Int) (waiting : Nat) (t : TimeUnit) : KeepsClock t (t.adjust d waiting) := by
  rcases t.adjust_cases d waiting with ⟨-, e⟩ | ⟨-, e⟩ <;> rw [e]
  · exact .refl t
  · obtain ⟨hday, hms, hfrac⟩ := t.shift_range d
    exact ⟨fun h => ⟨hday, hms, hfrac ▸ h.frac, h.trim, h.missed, h.outBand⟩, id⟩

/-- R47: a full deviation list takes no sample of a new source. -/
theorem enterSample_length (source : Nat) (d : Int) {devs : List (Nat × Int)} (h : devs.length ≤ 15) :
    (enterSample source d devs).length ≤ 15 := by
  unfold enterSample
  split
  · simpa using h
  · split
    · rw [List.length_append]; simpa using ‹_›
    · exact h

/-- A round that starts empties the list (R48). -/
theorem KeepsClock.newRound {a b : TimeUnit} (h : ClockOk a → ClockOk b) : KeepsClock a b.newRound :=
  ⟨fun x => have k := h x; ⟨k.day, k.ms, k.frac, k.trim, k.missed, k.outBand⟩, fun _ => by simp [TimeUnit.newRound]⟩

/-- R43 to R47: a beacon handed over. -/
theorem KeepsClock.hearBeacon (source b : Nat) (x arrival : Stamp) (waiting : Nat) (t : TimeUnit) :
    KeepsClock t (t.hearBeacon source b x arrival waiting).time := by
  unfold TimeUnit.hearBeacon
  dsimp only
  split
  · exact ⟨fun h => ⟨h.day, h.ms, h.frac, h.trim, h.missed, h.outBand⟩, id⟩
  split
  · exact ⟨fun h => ⟨h.day, h.ms, h.frac, h.trim, h.missed, h.outBand⟩, enterSample_length _ _⟩
  split
  · exact ⟨fun h => have k := (KeepsClock.adjust (deviation x arrival) waiting t).clock h
      ⟨k.day, k.ms, k.frac, k.trim, Nat.zero_le _, Nat.zero_le _⟩, fun _ => by simp [TimeOut.ofChange, TimeUnit.adopt]⟩
  split
  · exact ⟨fun h => ⟨h.day, h.ms, h.frac, h.trim, h.missed, h.outBand⟩, enterSample_length _ _⟩
  · exact .refl t

/-- R48 to R53: a round end. -/
theorem KeepsClock.endRound (waiting : Nat) (t : TimeUnit) : KeepsClock t (t.endRound waiting).time := by
  unfold TimeUnit.endRound
  dsimp only
  have moved (d : Int) (h : ClockOk t) := (KeepsClock.adjust d waiting t).clock h
  split
  · exact .newRound fun h => have k := moved _ h; ⟨k.day, k.ms, k.frac, k.trim, Nat.zero_le _, Nat.zero_le _⟩
  split
  · exact .newRound fun h => ⟨h.day, h.ms, h.frac, h.trim, Nat.min_le_right _ _, Nat.zero_le _⟩
  split
  · exact .newRound fun h => have k := moved _ h
      ⟨k.day, k.ms, k.frac, clampTo_range (by decide) _, Nat.zero_le _, Nat.zero_le _⟩
  split
  · exact .newRound fun h => ⟨h.day, h.ms, h.frac, h.trim, Nat.zero_le _, by simp only [TimeUnit.endOutOfBand]; omega⟩
  · exact .newRound fun h => have k := moved _ h; ⟨k.day, k.ms, k.frac, k.trim, Nat.zero_le _, Nat.zero_le _⟩

/-- R54: a day and a ms of day in range. -/
theorem KeepsClock.setTo {day ms : Nat} (hd : day < 256) (hm : ms < 86400000) (waiting : Nat) (t : TimeUnit) :
    KeepsClock t (t.setTo day ms waiting) :=
  ⟨fun h => ⟨hd, hm, by simp [TimeUnit.setTo], h.trim, by simp [TimeUnit.setTo], by simp [TimeUnit.setTo]⟩,
    fun _ => by simp [TimeUnit.setTo]⟩

/-- A minute event touches the model's own field alone (R38). -/
theorem KeepsClock.giveMinute (t : TimeUnit) : KeepsClock t t.giveMinute :=
  ⟨fun h => ⟨h.day, h.ms, h.frac, h.trim, h.missed, h.outBand⟩, id⟩

/-- An event of the Time Unit leaves the unit it came to, its minute given or not. -/
theorem State.timeEvent_time (o : TimeOut) (s : State) :
    (s.timeEvent o).time = o.time ∨ (s.timeEvent o).time = o.time.giveMinute := by
  simp only [State.timeEvent]
  split
  · exact .inr rfl
  · exact .inl rfl

theorem CorePath.timeEvent {o : TimeOut} {s : State} (h : KeepsClock s.time o.time) : CorePath s (s.timeEvent o) := by
  refine .trans (t := { s with time := (s.timeEvent o).time }) (CorePart.clock ?_).path
    (.side (by rw [State.timeEvent_frame]; rfl))
  rcases s.timeEvent_time o with e | e <;> rw [e]
  · exact h
  · exact h.trans (.giveMinute _)

/-! ## The Transmit Queue -/

/-- A rewriting of frames that neither gives up a PENDING mark's frame nor makes a CONDITION frame unstarted. -/
theorem Thinned.map {g : TxFrame → TxFrame} {q : List TxFrame} (live : ∀ f, f.live = true → (g f).live = true)
    (cond : ∀ f, (g f).replaceable = true → f.replaceable = true) : Thinned q (q.map g) where
  length := by simp
  live h f hf := by
    obtain ⟨x, hx, rfl⟩ := List.mem_map.1 hf
    exact live x (h x hx)
  conditions := by
    rw [List.countP_map]
    exact List.countP_mono_left fun f _ hf => cond f hf

/-- R15: of a rewritten queue the frames with no PENDING mark leave. -/
theorem Thinned.dropFinished_map {g : TxFrame → TxFrame} {q : List TxFrame}
    (cond : ∀ f, (g f).replaceable = true → f.replaceable = true) : Thinned q (dropFinished (q.map g)) where
  length := (List.length_filter_le _ _).trans (by simp)
  live _ f hf := (List.mem_filter.1 hf).2
  conditions := by
    refine (List.Sublist.countP_le List.filter_sublist).trans ?_
    rw [List.countP_map]
    exact List.countP_mono_left fun f _ hf => cond f hf

@[simp] theorem TxFrame.replaceable_setMark (l : LineId) (m : Mark) (cur : Bool) (f : TxFrame) :
    (f.setMark l m cur).replaceable = f.replaceable := by cases l <;> rfl

/-- R11, R13: the line's PENDING frames given up. -/
theorem Thinned.giveUpQueue (l : LineId) (q : List TxFrame) : Thinned q (giveUpQueue l q) :=
  .dropFinished_map fun f => by
    unfold TxFrame.giveUp
    split <;> simp

/-- R8, R9: the line's current frame finished. -/
theorem Thinned.finishCurrent (l : LineId) (m : Mark) (q : List TxFrame) : Thinned q (finishCurrent l m q) :=
  .dropFinished_map fun f => by
    split <;> simp

theorem Thinned.refl (q : List TxFrame) : Thinned q q := ⟨le_rfl, id, le_rfl⟩

theorem Thinned.trans {a b c : List TxFrame} (h : Thinned a b) (k : Thinned b c) : Thinned a c :=
  ⟨k.length.trans h.length, fun x => k.live (h.live x), k.conditions.trans h.conditions⟩

theorem Thinned.nil (q : List TxFrame) : Thinned q [] := ⟨by simp, by simp, by simp⟩

/-- A frame PENDING on a line that becomes current there stays PENDING there. -/
theorem TxFrame.live_setMark_pending (l : LineId) (cur : Bool) (f : TxFrame) : (f.setMark l .pending cur).live = true := by
  cases l <;> simp [TxFrame.setMark, TxFrame.live]

/-- R5: the oldest frame PENDING on the line becomes current. -/
theorem Thinned.changeFirst {p : TxFrame → Bool} (l : LineId) (cur : Bool) (q : List TxFrame) :
    Thinned q (changeFirst p (fun f => f.setMark l .pending cur) q) := by
  induction q with
  | nil => exact .nil _
  | cons f q ih =>
    unfold Machine.changeFirst
    split
    · exact ⟨by simp, by simpa using fun _ h => ⟨f.live_setMark_pending l cur, h⟩, by simp [List.countP_cons]⟩
    · refine ⟨by simpa using ih.length, fun h => ?_, by simpa [List.countP_cons] using ih.conditions⟩
      rw [List.forall_mem_cons] at h ⊢
      exact ⟨h.1, ih.live h.2⟩

/-- R5: the frame chosen. -/
theorem Thinned.choose (l : LineId) (s : State) : Thinned s.txQueue (s.choose l).txQueue := by
  unfold State.choose
  split
  · exact .refl _
  split
  · simpa using Thinned.refl _
  · simpa using Thinned.changeFirst l true s.txQueue

/-- R5, R16: the frame chosen and started. -/
theorem Thinned.transmit (l : LineId) (s : State) : Thinned s.txQueue (s.transmit l).txQueue := by
  refine (Thinned.choose l s).trans ?_
  unfold State.transmit
  simp only [State.setLine_txQueue, State.withQueue_txQueue]
  refine .map (fun f hf => ?_) fun f hf => ?_ <;> split at * <;> simp_all [TxFrame.live, TxFrame.replaceable]

end Sys2Proof.Machine
end

section
/-! PROOFS. Each command but the two of RESET_N as a chain of parts. -/

namespace Sys2Proof.Machine

/-! ## Lines -/

theorem BeginsNothing.refl (x : Line) : BeginsNothing x x := ⟨id, id, id⟩

/-- A line as it was, whose engine does not drive. -/
theorem BeginsNothing.of_eq {x y : Line} (h1 : y.beaconDue = x.beaconDue) (h2 : y.beaconCurrent = x.beaconCurrent)
    (h3 : y.access = x.access ∨ y.driverEnable = false) : BeginsNothing x y where
  beaconDue h := h1.trans h
  beaconCurrent h := h2.trans h
  driver h := by
    rcases h3 with h3 | h3
    · simpa [Line.driverEnable, h3] using h
    · exact h3

theorem BeginsNothing.idleFromNow (x : Line) : BeginsNothing x x.idleFromNow := by
  unfold Line.idleFromNow
  split <;> exact .of_eq rfl rfl (.inl rfl)

theorem BeginsNothing.carrierUnbroken (limit : Nat) (x : Line) : BeginsNothing x (x.carrierUnbroken limit) := by
  rcases x.carrierUnbroken_cases limit with ⟨-, e⟩ | ⟨n, -, -, -, e⟩ | ⟨-, -, e⟩ <;> rw [e] <;>
    exact .of_eq rfl rfl (.inl rfl)

/-- R4: a suspended count does not drive. -/
theorem Access.suspend_sending (slotTime : Nat) (a : Access) :
    (∃ bytes e, a.suspend slotTime = .sending bytes e) ↔ ∃ bytes e, a = .sending bytes e := by
  cases a <;> simp [Access.suspend]

theorem Line.driverEnable_iff (x : Line) : x.driverEnable = true ↔ ∃ bytes e, x.access = .sending bytes e := by
  unfold Line.driverEnable
  cases x.access <;> simp

/-- An engine with no work ends its cycle; one with work counts, or transmits (R3, R4). -/
theorem CorePath.afterGap (l : LineId) (draw : Nat) (s : State) : CorePath s (s.afterGap l draw) := by
  have counts (k : Nat) : CorePath s (s.setLine l { s.line l with access := .counting k 0 }) :=
    .line (.of_eq rfl rfl (.inr rfl))
  unfold State.afterGap
  split
  · split
    · exact .refl s
    · exact .line (.of_eq rfl rfl (.inr rfl))
  · rename_i hw
    have sends : CorePath s (s.transmit l) := (CorePart.transmit (by simpa using hw)).path
    split
    · split
      exacts [sends, counts _]
    · split
      exacts [sends, counts _]
    · exact .refl s
    · exact .refl s

/-- R4: a line that goes busy suspends its count. -/
theorem CorePath.goBusy (l : LineId) (s : State) : CorePath s (s.goBusy l) := by
  have busy : CorePath s (s.setLine l { (s.line l).busy with access := (s.line l).access.suspend s.slotTime }) := by
    refine .line ⟨id, id, fun h => ?_⟩
    rw [← Bool.not_eq_true, Line.driverEnable_iff] at h ⊢
    simpa [Access.suspend_sending] using h
  unfold State.goBusy
  dsimp only
  split
  · split
    · exact busy.trans (CorePart.choose l _).path
    · exact busy
  · exact busy

theorem CorePath.countDone (l : LineId) (s : State) : CorePath s (s.countDone l) := by
  unfold State.countDone
  split
  · exact .line (.of_eq rfl rfl (.inr rfl))
  · rename_i hw
    split
    · have waits : CorePath s (s.setLine l { s.line l with access := .suspended 0 }) := .line (.of_eq rfl rfl (.inr rfl))
      exact waits.trans (CorePart.choose l _).path
    · exact (CorePart.transmit (by simpa using hw)).path

/-- The queue thinned, a notice raised or not, and then the line changed, where that begins nothing. -/
theorem CorePath.thinThenLine {l : LineId} {s t : State} {q : List TxFrame} {y : Line} (hq : Thinned s.txQueue q)
    (ht : t.core = (s.withQueue q).core) (hy : BeginsNothing (t.line l) y) : CorePath s (t.setLine l y) :=
  ((CorePart.thin hq).path.trans (.side ht)).trans (.line hy)

/-- An engine that is released does not drive (R8, R9, R11, R13). -/
theorem BeginsNothing.release {x y : Line} (h : y.access = .rest) (hd : x.beaconDue = false → y.beaconDue = false)
    (hc : x.beaconCurrent = false → y.beaconCurrent = false) : BeginsNothing x y :=
  ⟨hd, hc, fun _ => by simp [Line.driverEnable, h]⟩

theorem CorePath.enterDown (l : LineId) (s : State) : CorePath s (s.enterDown l) := by
  refine thinThenLine (q := if (s.line (otherLine l)).st = .down then [] else giveUpQueue l s.txQueue) ?_ rfl
    (.release rfl (fun _ => rfl) (fun _ => rfl))
  split
  · exact .nil _
  · exact .giveUpQueue l _

theorem CorePath.collide (l : LineId) (s : State) : CorePath s (s.collide l) := by
  unfold State.collide
  dsimp only
  split
  · exact .line (.of_eq rfl rfl (.inr rfl))
  · refine thinThenLine (q := if (s.line l).beaconCurrent then s.txQueue else finishCurrent l .abandoned s.txQueue) ?_ rfl
      (.release rfl (fun h => ?_) (fun _ => rfl))
    · split
      exacts [.refl _, .finishCurrent l _ _]
    · simp only [State.line_raise, State.line_withQueue] at h
      simp [Line.release, Line.finishBeacon, h]

theorem CorePath.sentOn (l : LineId) (s : State) : CorePath s (s.sentOn l) := by
  refine thinThenLine (q := if (s.line l).beaconCurrent then s.txQueue else finishCurrent l .sent s.txQueue) ?_ rfl
    (.release rfl (fun h => ?_) (fun _ => rfl))
  · split
    exacts [.refl _, .finishCurrent l _ _]
  · simp only [State.line_withQueue] at h
    simp [Line.frameOver, Line.quiet, Line.release, Line.finishBeacon, h]

theorem CorePath.enterStuck (l : LineId) (s : State) : CorePath s (s.enterStuck l) :=
  thinThenLine (.giveUpQueue l s.txQueue) rfl (.release rfl (fun _ => rfl) (fun _ => rfl))

/-! ## Reception -/

/-- R24 to R33: the stages after the frame check. -/
theorem CorePath.sortFrame (f : RawFrame) (arrival : Stamp) (s : State) : CorePath s (s.sortFrame f arrival) := by
  unfold State.sortFrame
  split
  · exact .refl s
  split
  · exact .side rfl
  split
  · exact .refl s
  dsimp only
  split
  · exact (CorePart.remember _ _ s).path.trans (CorePart.arrive _ _).path
  · exact (CorePart.remember _ _ s).path

theorem CorePath.frameEnd (l : LineId) (bytes : List Byte) (arrival : Stamp) (s : State) :
    CorePath s (match parseFrame bytes with
      | some f => (s.setLine l ((s.line l).endReception bytes)).sortFrame f arrival
      | none => s.setLine l ((s.line l).endReception bytes)) := by
  have ends : CorePath s (s.setLine l ((s.line l).endReception bytes)) := by
    refine .line ?_
    rw [Line.endReception_eq]
    exact .of_eq rfl rfl (.inl rfl)
  split
  · exact ends.trans (.sortFrame _ _ _)
  · exact ends

/-! ## Changes outside the core, and offers -/

theorem State.core_withZones (z : ConditionList) (s : State) : (s.withZones z).core = s.core := by
  rw [State.withZones_frame]; rfl

theorem State.core_doJob (job : Job) (upTo : Option Nat) (s : State) : (s.doJob job upTo).core = s.core := by
  unfold State.doJob
  split <;> rfl

theorem State.core_giveMinuteEvent (s : State) : s.giveMinuteEvent.core = { s with time := s.time.giveMinute }.core := rfl

/-- An offer, and then a change outside the core. -/
theorem CorePath.offerThen {b : Body} {refresh prompt : Bool} {s t : State} (h : t.core = (s.offer b refresh prompt).core) :
    CorePath s t := (CorePart.offer b refresh prompt s).path.trans (.side h)

theorem CorePath.offerOwn (s : State) : CorePath s s.offerOwn := .offerThen (b := s.zones.ownBody) (refresh := false) (prompt := false) rfl

theorem CorePath.buildPrompt (s : State) : CorePath s s.buildPrompt :=
  .offerThen (b := s.advertBody (s.routes.promptSet.take 20)) (refresh := false) (prompt := true) rfl

theorem CorePath.buildRound (s : State) : CorePath s s.buildRound := by
  unfold State.buildRound
  dsimp only
  split
  · exact .side rfl
  · exact .offerThen (b := s.advertBody s.routes.roundRooms) (refresh := false) (prompt := false) rfl

theorem CorePath.announce (r : SessionRecord) (s : State) : CorePath s (s.announce r) := by
  have h : (s.announce r).core = (s.offer (.session r) false false).core := by
    unfold State.announce
    dsimp only
    split
    · rfl
    · split <;> rfl
  exact .offerThen h

theorem CorePath.mergePost (r : SessionRecord) (s : State) : CorePath s (s.mergePost r) := by
  unfold State.mergePost
  dsimp only
  split
  · refine .trans (.side ?_) (.announce r _)
    rfl
  · exact .side rfl

theorem CorePath.setTime {day ms : Nat} (hd : day < 256) (hm : ms < 86400000) (s : State) : CorePath s (s.setTime day ms) :=
  ((CorePath.timeEvent (o := TimeOut.ofChange s.time _ true) (KeepsClock.setTo hd hm _ s.time)).trans
    (CorePart.beacon _).path).answer _ _ _

theorem CorePath.postZones (closed notice : ZoneVec) (s : State) : CorePath s (s.postZones closed notice) :=
  (CorePath.trans (.side (State.core_withZones _ s)) (.offerOwn _)).answer _ _ _

theorem State.core_endPass (p : Pass) (s : State) : (s.endPass p).core = s.core := by
  unfold State.endPass
  split <;> rfl

/-- What the end of a program cycle touches of the station (R169, R170). -/
theorem State.endCycle_frame (s : State) :
    s.endCycle = { s with
      otp := s.endCycle.otp, cycle := s.endCycle.cycle, freeCount := s.endCycle.freeCount, locked := s.endCycle.locked
      port := s.endCycle.port } := by
  unfold State.endCycle
  split
  · split <;> rfl
  · rfl

/-- What the judging of a PROGRAM WORD touches of the station (R169). -/
theorem State.judgeProgram_frame (addr : Nat) (pattern : Word) (s : State) :
    s.judgeProgram addr pattern = { s with
      cycle := (s.judgeProgram addr pattern).cycle, port := (s.judgeProgram addr pattern).port } := by
  unfold State.judgeProgram
  repeat' split
  all_goals rfl

/-- What the judging of a VERIFY WORD touches of the station (R171). -/
theorem State.judgeVerify_frame (addr : Nat) (s : State) :
    s.judgeVerify addr = { s with port := (s.judgeVerify addr).port } := by
  unfold State.judgeVerify
  repeat' split
  all_goals rfl

theorem State.core_takeReadSession (body : List Byte) (s : State) : (s.takeReadSession body).core = s.core := by
  unfold State.takeReadSession
  split
  · split <;> rfl
  · rfl

theorem State.core_takeReadRoute (room : Nat) (s : State) : (s.takeReadRoute room).core = s.core := by
  unfold State.takeReadRoute
  split <;> rfl

theorem State.core_readPlate (s : State) : s.readPlate.core = s.core := by
  unfold State.readPlate
  split <;> rfl

/-! ## Every command -/

/-- An event that takes place outside the core. -/
theorem CorePath.afterSide {f : State → State} {w : Option Nat} {s : State} (h : ∀ s, (f s).core = s.core) :
    CorePath s (s.after w f) := .after (fun s => .side (h s)) w s

/-- An event that comes about under a condition. -/
theorem CorePath.when {c : Bool} {s t : State} (h : CorePath s t) : CorePath s (if c then t else s) := by
  split
  exacts [h, .refl s]

/-- Every command but the two of RESET_N answers a next state, and is a chain of parts. -/
theorem exec_corePath (c : Instr) (s : State) (hassert : c ≠ .resetNAssert) (hrelease : ∀ x d, c ≠ .resetNRelease x d) :
    ∃ t, exec c s = .next t ∧ CorePath s t := by
  cases c with
  | resetNAssert => exact absurd rfl hassert
  | resetNRelease x d => exact absurd rfl (hrelease x d)
  | lineIdleGap l draw => exact ⟨_, rfl, .when ((CorePath.line (.idleFromNow _)).trans (.after (.afterGap l draw) _ _))⟩
  | lineBusy l => exact ⟨_, rfl, .when (.goBusy l s)⟩
  | backoffExpiry l => exact ⟨_, rfl, .after (.countDone l) _ s⟩
  | echoFailure l =>
    refine ⟨_, rfl, .when ?_⟩
    split
    · exact .enterDown l s
    · exact .line (.of_eq rfl rfl (.inr rfl))
  | collision l => exact ⟨_, rfl, .when (.collide l s)⟩
  | frameSent l => exact ⟨_, rfl, .after (.sentOn l) _ s⟩
  | carrierStuck l =>
    refine ⟨_, rfl, ?_⟩
    split
    · exact (CorePath.line (.carrierUnbroken _ _)).trans (.after (.enterStuck l) _ _)
    · exact .refl s
  | stuckLineRecovery l =>
    have recovers (t : State) : CorePath t (t.setLine l (t.line l).recover) := .line (.release rfl id (fun _ => rfl))
    exact ⟨_, rfl, .when ((CorePath.line (.idleFromNow _)).trans (.after recovers _ _))⟩
  | startDelimiter l =>
    refine ⟨_, rfl, .when ?_⟩
    have stamped (t : State) : CorePath t (t.setLine l { t.line l with rx := some s.time.stamp }) :=
      .line (.of_eq rfl rfl (.inl rfl))
    refine .trans ?_ (stamped _)
    split
    exacts [.refl s, .goBusy l s]
  | frameEnd l bytes =>
    refine ⟨_, rfl, ?_⟩
    split
    · exact .frameEnd l bytes _ s
    · exact .refl s
  | duplicateEntryExpiry => exact ⟨_, rfl, .after (fun s => (CorePart.forget s).path) _ s⟩
  | beaconHandover =>
    refine ⟨_, rfl, ?_⟩
    split
    · rename_i h
      split
      · exact (CorePart.handOver h).path.trans (.timeEvent (.hearBeacon _ _ _ _ _ _))
      · exact .refl s
    · exact .refl s
  | roundEnd => exact ⟨_, rfl, .after (fun s => .timeEvent (.endRound _ _)) _ s⟩
  | beaconTimerExpiry =>
    refine ⟨_, rfl, .after (fun s => ?_) _ s⟩
    have timer : KeepsClock s.time { s.time with beaconTimer := some 0 } :=
      ⟨fun h => ⟨h.day, h.ms, h.frac, h.trim, h.missed, h.outBand⟩, id⟩
    exact (CorePart.clock timer).path.trans (CorePart.beacon _).path
  | minuteEvent =>
    exact ⟨_, rfl, .after (fun s => (CorePart.clock (.giveMinute _)).path.trans (.side (State.core_giveMinuteEvent s))) _ s⟩
  | setTime body =>
    refine ⟨_, rfl, .request ?_⟩
    split
    · split
      · exact .setTime (BitVec.isLt _) (by omega) s
      · exact .side rfl
    · exact .side rfl
  | inboundMerge =>
    refine ⟨_, rfl, ?_⟩
    split
    · rename_i h
      split
      · exact (CorePart.handOver h).path.trans (.side rfl)
      · exact .refl s
    · exact .refl s
  | postingBufferMerge =>
    refine ⟨_, rfl, ?_⟩
    split
    · split
      · split
        · exact .mergePost _ s
        · exact .side rfl
      · exact .refl s
    · exact .refl s
  | housekeepingRemoval =>
    refine ⟨_, rfl, .side ?_⟩
    split
    · split
      · split <;> rfl
      · rfl
    · rfl
  | refreshDue slot => exact ⟨_, rfl, .afterSide (by intro; rfl)⟩
  | refreshScanGrant =>
    refine ⟨_, rfl, ?_⟩
    split
    · rename_i rest h
      split
      · dsimp only
        split
        · split
          · rename_i e _ _
            have asked : CorePath s { s with sessions := { s.sessions with refreshReqs := rest } } := .side rfl
            exact asked.trans (.offerThen (b := .session e.record) (refresh := true) (prompt := false) rfl)
          · exact .side rfl
        · exact .side rfl
      · exact .refl s
    · exact .refl s
  | tombstoneExpiry slot => exact ⟨_, rfl, .afterSide (by intro; rfl)⟩
  | composerSessionRead => exact ⟨_, rfl, .side (by split <;> rfl)⟩
  | localPortSessionRead =>
    refine ⟨_, rfl, .side ?_⟩
    split
    · split
      · split <;> rfl
      · rfl
    · rfl
  | advertHandover =>
    refine ⟨_, rfl, ?_⟩
    split
    · rename_i h
      split
      · split
        · exact (CorePart.handOver h).path.trans (.side rfl)
        · exact .refl s
      · exact .refl s
    · exact .refl s
  | advertJob => exact ⟨_, rfl, .side (State.core_doJob _ _ s)⟩
  | conditionRecomputation => exact ⟨_, rfl, .side (State.core_doJob _ _ s)⟩
  | pinSetUpdate => exact ⟨_, rfl, .side (State.core_doJob _ _ s)⟩
  | frameBuilding =>
    refine ⟨_, rfl, ?_⟩
    split
    · split
      exacts [.buildPrompt s, .buildRound s]
    · exact .refl s
  | sweepTimerExpiry => exact ⟨_, rfl, .afterSide (by intro; rfl)⟩
  | sweep => exact ⟨_, rfl, .side (State.core_doJob _ _ s)⟩
  | roundDue => exact ⟨_, rfl, .afterSide (by intro; rfl)⟩
  | roundRetry =>
    refine ⟨_, rfl, .after (fun s => ?_) _ s⟩
    have due : CorePath s { s with routes := { s.routes with round := .due } } := .side rfl
    dsimp only
    split
    exacts [due.trans (.buildRound _), due]
  | promptDue => exact ⟨_, rfl, .afterSide (by intro; rfl)⟩
  | composerRouteRead => exact ⟨_, rfl, .side (by split <;> rfl)⟩
  | localPortRouteRead =>
    refine ⟨_, rfl, .side ?_⟩
    split
    · split <;> rfl
    · rfl
  | conditionHandover =>
    refine ⟨_, rfl, ?_⟩
    split
    · rename_i h
      split
      · refine (CorePart.handOver h).path.trans (.side ?_)
        rw [State.core_withZones]
        rfl
      · exact .refl s
    · exact .refl s
  | contributionExpiry source => exact ⟨_, rfl, .after (fun s => .side (State.core_withZones _ s)) _ s⟩
  | spillClear => exact ⟨_, rfl, .after (fun s => .side (State.core_withZones _ s)) _ s⟩
  | postZones body =>
    refine ⟨_, rfl, .request ?_⟩
    split
    · exact .postZones _ _ s
    · exact .refl s
  | ownFrameRetry => exact ⟨_, rfl, .after .offerOwn _ s⟩
  | ownFrameResend => exact ⟨_, rfl, .after .offerOwn _ s⟩
  | validUntilReached => exact ⟨_, rfl, .afterSide (by intro; rfl)⟩
  | passEnd =>
    refine ⟨_, rfl, .side ?_⟩
    split
    · split
      exacts [State.core_endPass _ s, rfl]
    · rfl
  | panelIntervalExpiry => exact ⟨_, rfl, .afterSide (by intro; rfl)⟩
  | plateClockedOut => exact ⟨_, rfl, .afterSide (by intro; rfl)⟩
  | panelAck busy => exact ⟨_, rfl, .side (by split <;> rfl)⟩
  | ackTimeout => exact ⟨_, rfl, .afterSide (by intro; rfl)⟩
  | panelBusyFall => exact ⟨_, rfl, .side rfl⟩
  | busyTimeout => exact ⟨_, rfl, .afterSide (by intro; rfl)⟩
  | faultTimerExpiry => exact ⟨_, rfl, .afterSide (by intro; rfl)⟩
  | panelHoldFall => exact ⟨_, rfl, .side rfl⟩
  | panelHoldRise => exact ⟨_, rfl, .side rfl⟩
  | readStatus body => exact ⟨_, rfl, .request (.side rfl)⟩
  | ackNotices body => exact ⟨_, rfl, .request (.side (by split <;> rfl))⟩
  | setAttentionEnables body => exact ⟨_, rfl, .request (.side (by split <;> rfl))⟩
  | clearAttentionEnables body => exact ⟨_, rfl, .request (.side (by split <;> rfl))⟩
  | readPlate body => exact ⟨_, rfl, .request (.side (State.core_readPlate s))⟩
  | lineRestart body => exact ⟨_, rfl, .request ((CorePart.restart s).path.answer _ _ _)⟩
  | postSession body => exact ⟨_, rfl, .request (.side rfl)⟩
  | readSessionByIndex body => exact ⟨_, rfl, .request (.side (State.core_takeReadSession body s))⟩
  | readSessionNextChanged body => exact ⟨_, rfl, .request (.side (State.core_takeReadSession body s))⟩
  | readRoute body =>
    refine ⟨_, rfl, .request (.side ?_)⟩
    split
    exacts [State.core_takeReadRoute _ s, rfl]
  | programWord body supply =>
    have level : CorePath s (s.supplyLevel supply) := .side rfl
    refine ⟨_, rfl, level.trans (.request (.side ?_))⟩
    split
    exacts [by rw [State.judgeProgram_frame]; rfl, rfl]
  | programCycleEnd => exact ⟨_, rfl, .afterSide fun s => by rw [State.endCycle_frame]; rfl⟩
  | pgmSupplyFall => exact ⟨_, rfl, .side rfl⟩
  | verifyWord body supply =>
    have level : CorePath s (s.supplyLevel supply) := .side rfl
    refine ⟨_, rfl, level.trans (.request (.side ?_))⟩
    split
    exacts [by rw [State.judgeVerify_frame]; rfl, rfl]
  | requestCodeNamesNoRequest code body =>
    refine ⟨_, rfl, ?_⟩
    split
    exacts [.request (.refl s), .refl s]

end Sys2Proof.Machine
end

section
/-! PROOFS. Steps: what RESET_N leaves of the core, and that a station outside RUN stays quiet. -/

namespace Sys2Proof.Machine

/-! ## RESET_N -/

/-- START chooses the mode; the rest of the core stays as it is. -/
theorem State.core_start (s : State) : s.start.core = { s with mode := s.start.mode }.core := by
  unfold State.start
  split
  · rfl
  · split <;> rfl

/-- What RESET_N_RELEASE leaves of the core: mode and straps alone are new. -/
theorem State.core_release (x : Straps) (d : Bool) (s : State) :
    (s.sample x d).start.core = { s with mode := (s.sample x d).start.mode, straps := x }.core :=
  State.core_start _

/-! ## Outside RUN -/

/-- What RUN alone works on: the core, the tables, and the Composer's pass. -/
def State.work (s : State) : State :=
  { s.core with
    sessions := s.sessions, routes := s.routes, zones := s.zones, composer := { Composer.reset with pass := s.composer.pass } }

/-- What RUN works on is left alone, and in START the Composer and the Panel Port too. -/
structure Untouched (s t : State) : Prop where
  work : t.work = s.work
  start : s.mode = .start → t.composer = s.composer ∧ t.panel = s.panel

theorem Untouched.refl (s : State) : Untouched s s := ⟨rfl, fun _ => ⟨rfl, rfl⟩⟩

theorem Untouched.mode {s t : State} (h : Untouched s t) : t.mode = s.mode := by
  have e := congrArg State.mode h.work
  exact e

theorem Untouched.trans {s t u : State} (h : Untouched s t) (k : Untouched t u) : Untouched s u where
  work := k.work.trans h.work
  start hm :=
    have ⟨hc, hp⟩ := h.start hm
    have ⟨kc, kp⟩ := k.start (h.mode.trans hm)
    ⟨kc.trans hc, kp.trans hp⟩

/-- Being quiet is having what RUN works on at its reset values, and in START the Composer and the Panel Port too. -/
theorem quietOutsideRun_iff (s : State) : QuietOutsideRun s ↔
    (s.mode ≠ .run → s.work = { State.reset with mode := s.mode, straps := s.straps }.work) ∧
    (s.mode = .start → s.composer = Composer.reset ∧ s.panel = PanelPort.reset) := by
  constructor
  · refine fun q => ⟨fun hr => ?_, q.start⟩
    simp only [State.work, State.core, q.lines hr, q.queue hr, q.sorter hr, q.time hr, q.sessions hr, q.routes hr, q.zones hr,
      q.noPass hr]
    rfl
  · rintro ⟨h, hst⟩
    have field {α : Type} (f : State → α) (hr : s.mode ≠ .run) :
        f s.work = f { State.reset with mode := s.mode, straps := s.straps }.work := congrArg f (h hr)
    exact ⟨fun hr => ⟨field State.lineA hr, field State.lineB hr⟩, fun hr => ⟨field State.txQueue hr, field State.ownSeq hr⟩,
      fun hr => ⟨field State.inbound hr, field State.dups hr⟩, field State.time, field State.sessions, field State.routes,
      field State.zones, field (·.composer.pass), hst⟩

/-- Where that is left alone a quiet station stays quiet. -/
theorem Untouched.quiet {s t : State} (h : Untouched s t) (q : QuietOutsideRun s) : QuietOutsideRun t := by
  have hx : t.straps = s.straps := by
    have e := congrArg State.straps h.work
    exact e
  rw [quietOutsideRun_iff] at q ⊢
  rw [h.mode, h.work, hx]
  refine ⟨q.1, fun hst => ?_⟩
  obtain ⟨hc, hp⟩ := h.start hst
  rw [hc, hp]
  exact q.2 hst

section
variable {s : State} (q : QuietOutsideRun s) (hr : s.mode ≠ .run)
include q hr

/-- Time that passes outside RUN moves no clock but those of the Panel Port and of a program cycle. -/
theorem Untouched.elapse (n : Nat) : Untouched s (s.elapse n) := by
  have hrun : s.running = false := by simp [State.running, hr]
  unfold State.elapse
  split
  · exact .refl s
  · refine ⟨?_, fun hst => ⟨rfl, ?_⟩⟩
    · simp [State.work, State.core, hrun, State.runTime, q.time hr, (q.sorter hr).2, TimeUnit.elapse, TimeUnit.advance, TimeUnit.reset,
        countOn, dupsElapse]
    · rw [(q.start hst).2]
      rfl

/-- An event outside RUN that leaves alone what RUN works on; in START it does not come about, or leaves Composer and panel alone. -/
theorem Untouched.after {w : Option Nat} {f : State → State} (hf : ∀ u, (f u).work = u.work)
    (hst : s.mode = .start → w = none ∨ ∀ u, (f u).composer = u.composer ∧ (f u).panel = u.panel) :
    Untouched s (s.after w f) := by
  rcases s.after_cases w f with ⟨-, e⟩ | ⟨n, hw, e⟩ <;> rw [e]
  · exact .refl s
  · refine (Untouched.elapse q hr n).trans ⟨hf _, fun hm => ?_⟩
    rcases hst (by simpa using hm) with h | h
    · rw [h] at hw; cases hw
    · exact h _

omit q in
/-- A request that is allowed in RUN alone is at most turned away. -/
theorem Untouched.request {code : Nat} {ok : Bool} {act : State → State} : Untouched s (s.request code ok inRun act) := by
  rcases State.request_cases code ok inRun act s with e | ⟨st, e⟩ | ⟨-, -, -, -, h, -⟩
  · rw [e]; exact .refl s
  · rw [e]; exact ⟨rfl, fun _ => ⟨rfl, rfl⟩⟩
  · exact absurd (of_decide_eq_true h) hr

omit hr q in
/-- A request is turned away at most, or does what leaves alone what RUN works on. -/
theorem Untouched.requestOf {code : Nat} {ok : Bool} {allowed : Mode → Bool} {act : State → State} (h : Untouched s (act s)) :
    Untouched s (s.request code ok allowed act) := by
  rcases State.request_cases code ok allowed act s with e | ⟨st, e⟩ | ⟨-, -, -, -, -, e⟩ <;> rw [e]
  · exact .refl s
  · exact ⟨rfl, fun _ => ⟨rfl, rfl⟩⟩
  · exact h

end

/-- A change outside all this. -/
theorem Untouched.side {s t : State} (h : t.work = s.work) (hc : t.composer = s.composer) (hp : t.panel = s.panel) : Untouched s t :=
  ⟨h, fun _ => ⟨hc, hp⟩⟩

/-- Outside RUN no job on the Route Table waits. -/
theorem State.nextJob_of_quiet {s : State} (q : QuietOutsideRun s) (hr : s.mode ≠ .run) : s.nextJob = none := by
  simp [State.nextJob, q.routes hr, RouteEngine.reset, RouteEngine.firstJob, RouteEngine.promptWaits]

/-- Outside RUN every command but the two of RESET_N leaves alone what RUN works on: for want of a frame, an entry, a timer, a
pass or a transmission nothing of RUN comes about. -/
theorem exec_untouched {c : Instr} {s : State} (q : QuietOutsideRun s) (hr : s.mode ≠ .run)
    (hassert : c ≠ .resetNAssert) (hrelease : ∀ x d, c ≠ .resetNRelease x d) : ∃ t, exec c s = .next t ∧ Untouched s t := by
  have hrun : s.running = false := by simp [State.running, hr]
  have hline (l : LineId) : s.line l = Line.reset := by
    cases l
    exacts [(q.lines hr).1, (q.lines hr).2]
  have hdrive : Line.reset.driverEnable = false := rfl
  have hin := (q.sorter hr).1
  have hdups := (q.sorter hr).2
  have htime := q.time hr
  have hses := q.sessions hr
  have hrou := q.routes hr
  have hzon := q.zones hr
  have hpass := q.noPass hr
  have hpanel (hst : s.mode = .start) : s.panel = PanelPort.reset := (q.start hst).2
  have still (h : exec c s = .next s) : ∃ t, exec c s = .next t ∧ Untouched s t := ⟨s, h, .refl s⟩
  have hroute : s.composerWantsRoute = none := by simp [State.composerWantsRoute, hpass]
  have hslot : s.composerWantsSlot = false := by simp [State.composerWantsSlot, hpass]
  have hnext := State.nextJob_of_quiet q hr
  have hjob (job : Job) : (.next (s.doJob job none) : Result) = .next s := by simp [State.doJob, hnext]
  cases c with
  | resetNAssert => exact absurd rfl hassert
  | resetNRelease x d => exact absurd rfl (hrelease x d)
  | lineIdleGap l draw => exact still (by simp [exec, execLineIdleGap, hrun])
  | lineBusy l => exact still (by simp [exec, execLineBusy, hrun])
  | backoffExpiry l => exact still (by simp [exec, execBackoffExpiry, State.backoffWait, hline, Line.reset])
  | echoFailure l => exact still (by simp [exec, execEchoFailure, hline, hdrive])
  | collision l => exact still (by simp [exec, execCollision, hline, hdrive])
  | frameSent l => exact still (by simp [exec, execFrameSent, State.sentWait, hline, Line.reset])
  | carrierStuck l => exact still (by simp [exec, execCarrierStuck, State.stuckWait, hrun, onlyIf])
  | stuckLineRecovery l => exact still (by simp [exec, execStuckLineRecovery, hrun])
  | startDelimiter l => exact still (by simp [exec, execStartDelimiter, hrun])
  | frameEnd l bytes => exact still (by simp [exec, execFrameEnd, hline, Line.reset])
  | duplicateEntryExpiry => exact still (by simp [exec, execDuplicateEntryExpiry, hdups])
  | beaconHandover => exact still (by simp [exec, execBeaconHandover, hin])
  | roundEnd => exact still (by simp [exec, execRoundEnd, htime, TimeUnit.reset, timerWait])
  | beaconTimerExpiry => exact still (by simp [exec, execBeaconTimerExpiry, htime, TimeUnit.reset, timerWait])
  | minuteEvent => exact still (by simp [exec, execMinuteEvent, htime, TimeUnit.reset, TimeUnit.minuteWait, onlyIf])
  | setTime body => exact ⟨_, rfl, .request hr⟩
  | inboundMerge => exact still (by simp [exec, execInboundMerge, hin])
  | postingBufferMerge => exact still (by simp [exec, execPostingBufferMerge, hses, SessionTable.reset])
  | housekeepingRemoval => exact still (by simp [exec, execHousekeepingRemoval, hses, SessionTable.reset])
  | refreshDue slot =>
    exact still (by
      simp [exec, execRefreshDue, hses, SessionTable.reset, SessionTable.refreshWait, SessionTable.atSlot, clockWait, onlyIf])
  | refreshScanGrant => exact still (by simp [exec, execRefreshScanGrant, hses, SessionTable.reset])
  | tombstoneExpiry slot =>
    exact still (by simp [exec, execTombstoneExpiry, hses, SessionTable.reset, SessionTable.atSlot, clockWait])
  | composerSessionRead => 
    have hgrant : s.grant ≠ some .composerRead := by
      simp [State.grant, hin, hses, hslot, SessionTable.reset]
    exact still (by simp [exec, execComposerSessionRead, hgrant])
  | localPortSessionRead =>
    refine ⟨_, rfl, ?_⟩
    split
    · split
      · split
        · exact .side (by simp [State.work, State.core, hses, SessionTable.reset]) rfl rfl
        · exact .side rfl rfl rfl
      · exact .refl s
    · exact .refl s
  | advertHandover => exact still (by simp [exec, execAdvertHandover, hin])
  | advertJob => exact still (hjob _)
  | conditionRecomputation => exact still (hjob _)
  | pinSetUpdate => exact still (hjob _)
  | frameBuilding => exact still (by simp [exec, execFrameBuilding, hnext])
  | sweepTimerExpiry => exact still (by simp [exec, execSweepTimerExpiry, hrou, RouteEngine.reset, clockWait])
  | sweep => exact still (hjob _)
  | roundDue => exact still (by simp [exec, execRoundDue, hrou, RouteEngine.reset, clockWait])
  | roundRetry => exact still (by simp [exec, execRoundRetry, hrou, RouteEngine.reset, RouteEngine.retryWait])
  | promptDue => exact still (by simp [exec, execPromptDue, hrou, RouteEngine.reset, clockWait])
  | composerRouteRead => exact still (by simp [exec, execComposerRouteRead, hroute])
  | localPortRouteRead =>
    refine ⟨_, rfl, ?_⟩
    split
    · split
      exacts [.refl s, .side rfl rfl rfl]
    · exact .refl s
  | conditionHandover => exact still (by simp [exec, execConditionHandover, hin])
  | contributionExpiry source =>
    exact still (by simp [exec, execContributionExpiry, hzon, ConditionList.reset, ConditionList.expiryWait, clockWait])
  | spillClear => exact still (by simp [exec, execSpillClear, hzon, ConditionList.reset, clockWait])
  | postZones body => exact ⟨_, rfl, .request hr⟩
  | ownFrameRetry => exact still (by simp [exec, execOwnFrameRetry, hzon, ConditionList.reset, onlyIf])
  | ownFrameResend => exact still (by simp [exec, execOwnFrameResend, hzon, ConditionList.reset, clockWait])
  | validUntilReached =>
    have hwait : s.validUntilWait = none := by
      unfold State.validUntilWait
      repeat' split
      all_goals simp [hrun, onlyIf]
    exact still (by simp [exec, execValidUntilReached, hwait])
  | passEnd => exact still (by simp [exec, execPassEnd, hpass])
  | panelIntervalExpiry =>
    exact ⟨_, rfl, .after q hr (fun _ => rfl) fun hst => .inl (by simp [hpanel hst, PanelPort.reset, timerWait])⟩
  | plateClockedOut =>
    exact ⟨_, rfl, .after q hr (fun _ => rfl) fun hst => .inl (by simp [hpanel hst, PanelPort.reset, PanelPort.clockWait])⟩
  | panelAck busy =>
    refine ⟨_, rfl, ?_, fun hst => ⟨?_, ?_⟩⟩
    · split <;> rfl
    · split <;> rfl
    · simp [hpanel hst, PanelPort.reset, PanelPort.isAwaiting, PanelPort.busyLevel, PanelPort.isRefreshing]
  | ackTimeout =>
    exact ⟨_, rfl, .after q hr (fun _ => rfl) fun hst => .inl (by simp [hpanel hst, PanelPort.reset, timerWait, onlyIf])⟩
  | panelBusyFall =>
    exact ⟨_, rfl, rfl, fun hst => ⟨rfl, by simp [hpanel hst, PanelPort.reset, PanelPort.busyLevel, PanelPort.isRefreshing]⟩⟩
  | busyTimeout =>
    exact ⟨_, rfl, .after q hr (fun _ => rfl) fun hst => .inl (by simp [hpanel hst, PanelPort.reset, timerWait, onlyIf])⟩
  | faultTimerExpiry =>
    exact ⟨_, rfl, .after q hr (fun _ => rfl) fun hst => .inl (by simp [hpanel hst, PanelPort.reset, onlyIf])⟩
  | panelHoldFall =>
    exact ⟨_, rfl, rfl, fun hst => ⟨rfl, by simp [hpanel hst, PanelPort.reset, PanelPort.examine, PanelPort.examineFault]⟩⟩
  | panelHoldRise => exact ⟨_, rfl, .side rfl rfl rfl⟩
  | readStatus body => exact ⟨_, rfl, .requestOf (.side rfl rfl rfl)⟩
  | ackNotices body => exact ⟨_, rfl, .request hr⟩
  | setAttentionEnables body => exact ⟨_, rfl, .request hr⟩
  | clearAttentionEnables body => exact ⟨_, rfl, .request hr⟩
  | readPlate body => exact ⟨_, rfl, .request hr⟩
  | lineRestart body => exact ⟨_, rfl, .request hr⟩
  | postSession body => exact ⟨_, rfl, .request hr⟩
  | readSessionByIndex body => exact ⟨_, rfl, .request hr⟩
  | readSessionNextChanged body => exact ⟨_, rfl, .request hr⟩
  | readRoute body => exact ⟨_, rfl, .request hr⟩
  | programWord body supply =>
    have level : Untouched s (s.supplyLevel supply) := .side rfl rfl rfl
    refine ⟨_, rfl, level.trans (.requestOf ?_)⟩
    split
    · rw [State.judgeProgram_frame]
      exact .side rfl rfl rfl
    · exact .refl _
  | programCycleEnd =>
    refine ⟨_, rfl, .after q hr (fun u => ?_) fun _ => .inr fun u => ?_⟩ <;> rw [State.endCycle_frame]
    exacts [rfl, ⟨rfl, rfl⟩]
  | pgmSupplyFall => exact ⟨_, rfl, .side rfl rfl rfl⟩
  | verifyWord body supply =>
    have level : Untouched s (s.supplyLevel supply) := .side rfl rfl rfl
    refine ⟨_, rfl, level.trans (.requestOf ?_)⟩
    split
    · rw [State.judgeVerify_frame]
      exact .side rfl rfl rfl
    · exact .refl _
  | requestCodeNamesNoRequest code body =>
    refine ⟨_, rfl, ?_⟩
    split
    exacts [.requestOf (.refl s), .refl s]

/-! ## Steps -/

/-- A step is a command with some queue left, one entry operation of a job, or the passing of one µs. -/
theorem step_origin {s t : State} (h : step s = .next t) :
    (∃ c p, exec c { s with pending := p } = .next t) ∨ (∃ job, t = s.doJob job (some 1)) ∨ t = s.elapse 1 := by
  unfold step at h
  split at h
  · exact .inl ⟨_, _, h⟩
  · unfold State.idle at h
    split at h
    · unfold State.ownStep at h
      split at h
      · exact .inr (.inl ⟨_, (Host.Outcome.next.inj h).symm⟩)
      · exact .inr (.inl ⟨_, (Host.Outcome.next.inj h).symm⟩)
      · exact .inr (.inl ⟨_, (Host.Outcome.next.inj h).symm⟩)
      · exact .inr (.inl ⟨_, (Host.Outcome.next.inj h).symm⟩)
      · exact .inl ⟨_, s.pending, h⟩
    · exact .inr (.inr (Host.Outcome.next.inj h).symm)

/-- What a step can be: RESET_N_ASSERT, RESET_N_RELEASE in START, or a chain of parts that outside RUN leaves alone what RUN works on. -/
theorem step_cases {s t : State} (h : step s = .next t) :
    (∃ p, exec .resetNAssert { s with pending := p } = .next t) ∨
    (∃ x d p, s.mode = .start ∧ t = ({ s with pending := p }.sample x d).start) ∨
    (CorePath s t ∧ (QuietOutsideRun s → s.mode ≠ .run → Untouched s t)) := by
  rcases step_origin h with ⟨c, p, h⟩ | ⟨job, rfl⟩ | rfl
  · have popped : Untouched s { s with pending := p } := .side rfl rfl rfl
    by_cases hassert : c = .resetNAssert
    · exact .inl ⟨p, hassert ▸ h⟩
    · by_cases hrelease : ∃ x d, c = .resetNRelease x d
      · obtain ⟨x, d, rfl⟩ := hrelease
        obtain rfl := Host.Outcome.next.inj h
        split
        · exact .inr (.inl ⟨x, d, p, ‹_›, rfl⟩)
        · exact .inr (.inr ⟨.side rfl, fun _ _ => popped⟩)
      · have hrelease : ∀ x d, c ≠ .resetNRelease x d := fun x d e => hrelease ⟨x, d, e⟩
        refine .inr (.inr ⟨?_, fun q hr => ?_⟩)
        · obtain ⟨u, e, hp⟩ := exec_corePath c { s with pending := p } hassert hrelease
          obtain rfl := Host.Outcome.next.inj (e.symm.trans h)
          exact .trans (t := { s with pending := p }) (.side rfl) hp
        · obtain ⟨u, e, hu⟩ := exec_untouched (popped.quiet q) hr hassert hrelease
          obtain rfl := Host.Outcome.next.inj (e.symm.trans h)
          exact popped.trans hu
  · refine .inr (.inr ⟨.side (State.core_doJob _ _ s), fun q hr => ?_⟩)
    rw [State.doJob, State.nextJob_of_quiet q hr, if_neg (by simp)]
    exact .refl s
  · exact .inr (.inr ⟨(CorePart.elapse 1 s).path, fun q hr => .elapse q hr 1⟩)

/-- A property of the core, but for mode and straps, that reset meets and every part keeps is kept by every step. -/
theorem step_keeps {p : State → Prop} (part : ∀ {s t}, CorePart s t → p s → p t)
    (assert : ∀ {t}, t.core = State.reset.core → p t)
    (release : ∀ {s t}, t.core = { s with mode := t.mode, straps := t.straps }.core → p s → p t)
    {s t : State} (hs : p s) (h : step s = .next t) : p t := by
  rcases step_cases h with ⟨p, h⟩ | ⟨x, d, p, -, rfl⟩ | ⟨h, -⟩
  · obtain rfl := Host.Outcome.next.inj h
    exact assert rfl
  · have e := State.core_release x d { s with pending := p }
    refine release ?_ hs
    have hstraps := congrArg State.straps e
    dsimp only [State.core] at hstraps
    rw [hstraps]
    exact e
  · exact h.keeps part hs

end Sys2Proof.Machine
end

section
/-! PROOFS. The invariants of chapters 1 to 3 over every step (O29, O17): each is kept by every part, and so by every step. -/

namespace Sys2Proof.Machine

/-! ## What the parts leave alone -/

/-- What the core says of a block is what the state says of it. -/
theorem State.core_eq {s t : State} (h : t.core = s.core) :
    t.mode = s.mode ∧ t.straps = s.straps ∧ t.lineA = s.lineA ∧ t.lineB = s.lineB ∧ t.txQueue = s.txQueue ∧
      t.ownSeq = s.ownSeq ∧ t.dups = s.dups ∧ t.inbound = s.inbound ∧ t.time = s.time := by
  have field {α : Type} (f : State → α) : f t.core = f s.core := congrArg f h
  exact ⟨field State.mode, field State.straps, field State.lineA, field State.lineB, field State.txQueue, field State.ownSeq,
    field State.dups, field State.inbound, field State.time⟩

theorem State.setLine_frame (l : LineId) (x : Line) (s : State) :
    s.setLine l x = { s with lineA := (s.setLine l x).lineA, lineB := (s.setLine l x).lineB } := by
  cases l <;> rfl

/-- The choice of a frame touches the lines and the Transmit Queue alone (R5). -/
theorem State.choose_frame (l : LineId) (s : State) :
    s.choose l = { s with
      lineA := (s.choose l).lineA, lineB := (s.choose l).lineB, txQueue := (s.choose l).txQueue } := by
  unfold State.choose
  cases l <;> repeat' split
  all_goals rfl

/-- So does the beginning of a transmission (R5, R16). -/
theorem State.transmit_frame (l : LineId) (s : State) :
    s.transmit l = { s with
      lineA := (s.transmit l).lineA, lineB := (s.transmit l).lineB, txQueue := (s.transmit l).txQueue } := by
  unfold State.transmit
  rw [s.choose_frame l]
  cases l <;> rfl

/-- An offer to the Inbound Queue touches it and the notices alone (R33). -/
theorem State.inboundOffer_frame (f : InFrame) (s : State) :
    s.inboundOffer f = { s with inbound := (s.inboundOffer f).inbound, port := (s.inboundOffer f).port } := by
  unfold State.inboundOffer
  repeat' split
  all_goals rfl

/-- Time that passes leaves the clock as `TimeUnit.elapse` says. -/
theorem State.elapse_time (n : Nat) (s : State) : (s.elapse n).time = s.time ∨ (s.elapse n).time = s.time.elapse n := by
  unfold State.elapse
  split
  exacts [.inl rfl, .inr rfl]

/-! ## The clock -/

/-- Every part keeps the clock and the deviation list in their bounds. -/
theorem CorePart.keepsClock {s t : State} (h : CorePart s t) : KeepsClock s.time t.time := by
  have same (h : t.time = s.time) : KeepsClock s.time t.time := h ▸ .refl _
  cases h with
  | side h => obtain ⟨-, -, -, -, -, -, -, -, ht⟩ := State.core_eq h; exact same ht
  | elapse n =>
    rcases s.elapse_time n with e | e <;> rw [e]
    exacts [.refl _, .elapse n _]
  | offer b r p => exact same (by rw [State.offer_frame])
  | beacon => exact same (by rw [State.beaconIndication_frame])
  | line h => exact same (State.setLine_time ..)
  | choose l => exact same (by rw [State.choose_frame])
  | transmit h => exact same (by rw [State.transmit_frame])
  | thin h => exact .refl _
  | handOver h => exact .refl _
  | arrive f => exact same (by rw [State.inboundOffer_frame])
  | remember source seq => exact .refl _
  | forget => exact .refl _
  | clock h => exact h
  | restart => exact ⟨fun h => ⟨h.day, h.ms, h.frac, h.trim, h.missed, h.outBand⟩, id⟩

/-- R37, R51 to R53: the clock over every step. -/
theorem clockStaysInRange : Claims.ClockStaysInRange := fun _ _ =>
  step_keeps (p := fun s => ClockOk s.time) (fun h => h.keepsClock.clock)
    (fun h => by
      obtain ⟨-, -, -, -, -, -, -, -, ht⟩ := State.core_eq h
      rw [ht]
      exact ⟨by decide, by decide, by decide, by decide, by decide, by decide⟩)
    (fun h hs => by
      obtain ⟨-, -, -, -, -, -, -, -, ht⟩ := State.core_eq h
      exact ht ▸ hs)

/-! ## Reception -/

/-- R33: a full Inbound Queue takes no frame. -/
theorem State.inboundOffer_length (f : InFrame) {s : State} (h : s.inbound.length ≤ 24) :
    (s.inboundOffer f).inbound.length ≤ 24 := by
  unfold State.inboundOffer
  split
  · exact h
  · split
    · exact h
    · simp only [List.length_append, List.length_singleton]
      omega

/-- R26: of 64 pairs the oldest leaves for a new one. -/
theorem dupInsert_length (source seq : Nat) {dups : List DupEntry} (h : dups.length ≤ 64) :
    (dupInsert source seq dups).length ≤ 64 := by
  unfold dupInsert
  split <;> simp only [List.length_append, List.length_singleton, List.length_drop] <;> omega

/-- R26: a pair is new, or was there. -/
theorem mem_dupInsert {source seq : Nat} {dups : List DupEntry} {d : DupEntry} (h : d ∈ dupInsert source seq dups) :
    d ∈ dups ∨ d = { source := source, seq := seq, age := 0 } := by
  rw [dupInsert, List.mem_append, List.mem_singleton] at h
  refine h.imp_left fun h => ?_
  split at h
  exacts [List.mem_of_mem_drop h, h]

/-- The bounds of the Inbound Queue and the duplicate list. -/
structure SorterOk (q : List InFrame) (ds : List DupEntry) : Prop where
  inbound : q.length ≤ 24
  dups : ds.length ≤ 64
  young : ∀ d ∈ ds, d.age < 2000000

theorem receptionOk_iff (s : State) : ReceptionOk s ↔ SorterOk s.inbound s.dups ∧ s.time.devs.length ≤ 15 :=
  ⟨fun ⟨h1, h2, h3, h4⟩ => ⟨⟨h1, h2, h3⟩, h4⟩, fun ⟨⟨h1, h2, h3⟩, h4⟩ => ⟨h1, h2, h3, h4⟩⟩

/-- Every part keeps the Inbound Queue and the duplicate list in their bounds. -/
theorem CorePart.keepsSorter {s t : State} (h : CorePart s t) (hs : SorterOk s.inbound s.dups) : SorterOk t.inbound t.dups := by
  have same (hi : t.inbound = s.inbound) (hd : t.dups = s.dups) : SorterOk t.inbound t.dups := by rwa [hi, hd]
  obtain ⟨hin, hdups, hyoung⟩ := hs
  cases h with
  | side h => obtain ⟨-, -, -, -, -, -, hd, hi, -⟩ := State.core_eq h; exact same hi hd
  | elapse n =>
    rw [State.elapse_inbound, State.elapse_dups]
    split
    · exact ⟨hin, hdups, hyoung⟩
    · exact ⟨hin, (dupsElapse_length n _).trans hdups, fun d hd => (mem_dupsElapse.1 hd).2⟩
  | offer b r p => exact same (by rw [State.offer_frame]) (by rw [State.offer_frame])
  | beacon => exact same (by rw [State.beaconIndication_frame]) (by rw [State.beaconIndication_frame])
  | line h => exact same (State.setLine_inbound ..) (State.setLine_dups ..)
  | choose l => exact same (by rw [State.choose_frame]) (by rw [State.choose_frame])
  | transmit h => exact same (by rw [State.transmit_frame]) (by rw [State.transmit_frame])
  | thin h => exact ⟨hin, hdups, hyoung⟩
  | handOver h => exact ⟨by rw [h, List.length_cons] at hin; exact Nat.le_of_succ_le hin, hdups, hyoung⟩
  | arrive f =>
    refine ⟨s.inboundOffer_length f hin, ?_, ?_⟩ <;> rw [State.inboundOffer_frame]
    exacts [hdups, hyoung]
  | remember source seq =>
    refine ⟨hin, dupInsert_length source seq hdups, fun d hd => ?_⟩
    rcases mem_dupInsert hd with hd | rfl
    exacts [hyoung d hd, Nat.zero_lt_succ _]
  | forget =>
    exact ⟨hin, (List.length_filter_le _ _).trans hdups, fun d hd => hyoung d (List.mem_filter.1 hd).1⟩
  | clock h => exact ⟨hin, hdups, hyoung⟩
  | restart => exact ⟨by simp [State.restartLines], by simp [State.restartLines], by simp [State.restartLines]⟩

/-- R26, R27, R33, R47: the stores of Reception over every step. -/
theorem receptionBoundsAreKept : Claims.ReceptionBoundsAreKept := by
  intro s t hs h
  rw [receptionOk_iff] at hs ⊢
  refine step_keeps (p := fun s => SorterOk s.inbound s.dups ∧ s.time.devs.length ≤ 15)
    (fun h hs => ⟨h.keepsSorter hs.1, h.keepsClock.devs hs.2⟩) (fun h => ?_) (fun h hs => ?_) hs h <;>
    obtain ⟨-, -, -, -, -, -, hd, hi, ht⟩ := State.core_eq h <;> rw [hd, hi, ht]
  · exact ⟨⟨by decide, by decide, by decide⟩, by decide⟩
  · exact hs

/-! ## The Transmit Queue -/

/-- The queue's bounds, said of the queue. -/
structure FramesOk (q : List TxFrame) : Prop where
  bound : q.length ≤ 16
  live : ∀ f ∈ q, f.live = true
  oneCondition : q.countP TxFrame.replaceable ≤ 1

theorem queueOk_iff (s : State) : QueueOk s ↔ FramesOk s.txQueue :=
  ⟨fun ⟨h1, h2, h3⟩ => ⟨h1, h2, h3⟩, fun ⟨h1, h2, h3⟩ => ⟨h1, h2, h3⟩⟩

theorem Thinned.framesOk {q q' : List TxFrame} (h : Thinned q q') (hq : FramesOk q) : FramesOk q' :=
  ⟨h.length.trans hq.bound, h.live hq.live, h.conditions.trans hq.oneCondition⟩

/-- Finished frames gone, the bounds hold of what they held of, and every frame is PENDING on a line (R15). -/
theorem FramesOk.dropFinished {q : List TxFrame} (hb : q.length ≤ 16) (hc : q.countP TxFrame.replaceable ≤ 1) :
    FramesOk (dropFinished q) where
  bound := (List.length_filter_le _ _).trans hb
  live _ hf := (List.mem_filter.1 hf).2
  oneCondition := (List.Sublist.countP_le List.filter_sublist).trans hc

/-- R16: a CONDITION frame is appended where no other waits unstarted, and to fewer than 16 frames. -/
theorem State.offerDecision_appended {b : Body} {s : State} (h : s.offerDecision b = .appended) :
    (b.isCondition = true → s.txQueue.any TxFrame.replaceable = false) ∧ s.txQueue.length < 16 := by
  unfold State.offerDecision at h
  split at h
  · cases h
  split at h
  · cases h
  split at h
  · cases h
  · rename_i hc
    split at h
    · cases h
    · exact ⟨fun hb => by simpa [hb] using hc, by omega⟩

/-- R16, R17: an offer keeps the queue's bounds. -/
theorem FramesOk.offer {s : State} (b : Body) (r p : Bool) (h : FramesOk s.txQueue) : FramesOk (s.offer b r p).txQueue := by
  rcases s.offer_cases b r p with e | ⟨-, e⟩ | ⟨hd, e⟩ <;> rw [e]
  · exact h
  · refine .dropFinished (by simpa using h.bound) (le_trans ?_ h.oneCondition)
    rw [List.countP_map]
    refine List.countP_mono_left fun f _ hf => ?_
    by_cases hr : f.replaceable = true
    · exact hr
    · simp [hr] at hf
  · obtain ⟨hnone, hlen⟩ := State.offerDecision_appended hd
    refine .dropFinished (by simp only [List.length_append, List.length_singleton]; omega) ?_
    rw [List.countP_append]
    by_cases hb : b.isCondition = true
    · have hz : s.txQueue.countP TxFrame.replaceable = 0 := by
        simpa [List.countP_eq_zero] using hnone hb
      rw [hz, Nat.zero_add]
      exact List.countP_le_length
    · simpa [State.newFrame, TxFrame.replaceable, hb] using h.oneCondition

/-- Every part keeps the queue's bounds. -/
theorem CorePart.keepsFrames {s t : State} (h : CorePart s t) (hs : FramesOk s.txQueue) : FramesOk t.txQueue := by
  have same (e : t.txQueue = s.txQueue) : FramesOk t.txQueue := e ▸ hs
  cases h with
  | side h => obtain ⟨-, -, -, -, hq, -⟩ := State.core_eq h; exact same hq
  | elapse n => exact same (State.elapse_txQueue ..)
  | offer b r p => exact hs.offer b r p
  | beacon => exact same (by rw [State.beaconIndication_frame])
  | line h => exact same (State.setLine_txQueue ..)
  | choose l => exact (Thinned.choose l s).framesOk hs
  | transmit h => exact (Thinned.transmit _ s).framesOk hs
  | thin h => exact h.framesOk hs
  | handOver h => exact hs
  | arrive f => exact same (by rw [State.inboundOffer_frame])
  | remember source seq => exact hs
  | forget => exact hs
  | clock h => exact hs
  | restart => exact (Thinned.nil _).framesOk hs

/-- R15, R17: the Transmit Queue over every step. -/
theorem transmitQueueInvariantIsKept : Claims.TransmitQueueInvariantIsKept := by
  intro s t hs h
  rw [queueOk_iff] at hs ⊢
  refine step_keeps (p := fun s => FramesOk s.txQueue) CorePart.keepsFrames (fun h => ?_) (fun h hs => ?_) hs h <;>
    obtain ⟨-, -, -, -, hq, -⟩ := State.core_eq h <;> rw [hq]
  · exact ⟨by decide, by decide, by decide⟩
  · exact hs

/-- Settles O29: each bound is kept by every part of a command, and so by every step. -/
theorem storesAndClockStayInBounds : Obligations.StoresAndClockStayInBounds :=
  ⟨transmitQueueInvariantIsKept, receptionBoundsAreKept, clockStaysInRange⟩

end Sys2Proof.Machine
end

section
/-! PROOFS. A station outside RUN stays quiet, and one with LISTEN_ONLY set stays silent (O17). -/

namespace Sys2Proof.Machine

/-! ## Quiet outside RUN -/

/-- No part changes the mode or the straps. -/
theorem CorePart.mode_straps {s t : State} (h : CorePart s t) : t.mode = s.mode ∧ t.straps = s.straps := by
  cases h with
  | side h => obtain ⟨hm, hx, -⟩ := State.core_eq h; exact ⟨hm, hx⟩
  | elapse n => exact ⟨State.elapse_mode .., State.elapse_straps ..⟩
  | offer b r p => rw [State.offer_frame]; exact ⟨rfl, rfl⟩
  | beacon => rw [State.beaconIndication_frame]; exact ⟨rfl, rfl⟩
  | line h => exact ⟨State.setLine_mode .., State.setLine_straps ..⟩
  | choose l => rw [State.choose_frame]; exact ⟨rfl, rfl⟩
  | transmit h => rw [State.transmit_frame]; exact ⟨rfl, rfl⟩
  | arrive f => rw [State.inboundOffer_frame]; exact ⟨rfl, rfl⟩
  | thin _ | handOver _ | remember _ _ | forget | clock _ | restart => exact ⟨rfl, rfl⟩

/-- Nor does a chain of parts. -/
theorem CorePath.mode_straps {s t : State} (h : CorePath s t) : t.mode = s.mode ∧ t.straps = s.straps :=
  h.keeps (p := fun u => u.mode = s.mode ∧ u.straps = s.straps)
    (fun h hu => ⟨h.mode_straps.1.trans hu.1, h.mode_straps.2.trans hu.2⟩) ⟨rfl, rfl⟩

/-- A station in RUN has nothing to be quiet about. -/
theorem QuietOutsideRun.of_run {s : State} (h : s.mode = .run) : QuietOutsideRun s := by
  rw [quietOutsideRun_iff]
  exact ⟨fun hr => absurd h hr, fun hst => by rw [h] at hst; cases hst⟩

/-- RESET_N_ASSERT leaves every block as reset does. -/
theorem QuietOutsideRun.assert {s t : State} (h : exec .resetNAssert s = .next t) : QuietOutsideRun t := by
  obtain rfl := Host.Outcome.next.inj h
  exact ⟨fun _ => ⟨rfl, rfl⟩, fun _ => ⟨rfl, rfl⟩, fun _ => ⟨rfl, rfl⟩, fun _ => rfl, fun _ => rfl, fun _ => rfl, fun _ => rfl,
    fun _ => rfl, fun _ => ⟨rfl, rfl⟩⟩

/-- With another mode than START and other straps it stays so. -/
theorem QuietOutsideRun.of_work {s t : State} (q : QuietOutsideRun s) (hs : s.mode ≠ .run) (ht : t.mode ≠ .start)
    (h : t.work = { s with mode := t.mode, straps := t.straps }.work) : QuietOutsideRun t := by
  rw [quietOutsideRun_iff] at q ⊢
  refine ⟨fun _ => h.trans ?_, fun hst => absurd hst ht⟩
  exact congrArg (fun w : State => { w with mode := t.mode, straps := t.straps }) (q.1 hs)

/-- RESET_N_RELEASE leads to a quiet station or to RUN (R160, R165 to R167). -/
theorem QuietOutsideRun.release {s : State} (q : QuietOutsideRun s) (h : s.mode = .start) (x : Straps) (d : Bool) :
    QuietOutsideRun (s.sample x d).start := by
  have hs : s.mode ≠ .run := by rw [h]; decide
  unfold State.start
  split
  · exact q.of_work hs (by simp [State.enterProgram, State.offerFixed]) rfl
  · split
    · exact q.of_work hs (by simp [State.enterUnassigned, State.offerFixed]) rfl
    · exact .of_run rfl

/-- R19, R36, R57, R83, R119, R128, R166, R167: quiet outside RUN over every step. -/
theorem step_keepsQuiet {s t : State} (q : QuietOutsideRun s) (h : step s = .next t) : QuietOutsideRun t := by
  rcases step_cases h with ⟨p, h⟩ | ⟨x, d, p, hst, rfl⟩ | ⟨hpath, hquiet⟩
  · exact .assert h
  · have popped : Untouched s { s with pending := p } := .side rfl rfl rfl
    exact (popped.quiet q).release hst x d
  · by_cases hr : s.mode = .run
    · exact .of_run (hpath.mode_straps.1.trans hr)
    · exact (hquiet q hr).quiet q

/-! ## LISTEN_ONLY -/

/-- What a station with LISTEN_ONLY set has: nothing queued, no sequence number taken, nothing to send on either line. -/
structure Silent (s : State) : Prop where
  queue : s.txQueue = []
  ownSeq : s.ownSeq = 0
  line : ∀ l, LineSilent (s.line l)

theorem listenOnlySilent_iff (s : State) : ListenOnlySilent s ↔ QuietOutsideRun s ∧ (s.straps.listenOnly = true → Silent s) := by
  constructor
  · rintro ⟨q, hq, ha, hb⟩
    refine ⟨q, fun h => ⟨(hq h).1, (hq h).2, fun l => ?_⟩⟩
    cases l
    exacts [ha h, hb h]
  · rintro ⟨q, h⟩
    exact ⟨q, fun hx => ⟨(h hx).queue, (h hx).ownSeq⟩, fun hx => (h hx).line .a, fun hx => (h hx).line .b⟩

theorem BeginsNothing.silent {x y : Line} (h : BeginsNothing x y) (hx : LineSilent x) : LineSilent y :=
  ⟨h.beaconDue hx.noBeacon, h.beaconCurrent hx.noCurrent, h.driver hx.released⟩

/-- A line of a silent station is changed by what begins nothing. -/
theorem Silent.setLine {s : State} (hs : Silent s) {l : LineId} {y : Line} (h : LineSilent y) : Silent (s.setLine l y) where
  queue := by simpa using hs.queue
  ownSeq := by simpa using hs.ownSeq
  line k := by
    cases l <;> cases k
    exacts [h, hs.line .b, hs.line .a, h]

/-- A silent station has no work on a line (R3). -/
theorem Silent.hasWork {s : State} (hs : Silent s) (l : LineId) : s.hasWork l = false := by
  simp [State.hasWork, hs.queue, (hs.line l).noBeacon, (hs.line l).noCurrent]

/-- It has no frame to choose (R5). -/
theorem Silent.choose {s : State} (hs : Silent s) (l : LineId) : Silent (s.choose l) := by
  unfold State.choose
  split
  · exact hs
  split
  · rename_i h
    rw [(hs.line l).noBeacon] at h
    cases h
  · rw [hs.queue]
    have unqueued : Silent (s.withQueue []) := ⟨rfl, hs.ownSeq, fun k => by rw [State.line_withQueue]; exact hs.line k⟩
    exact unqueued.setLine (BeginsNothing.silent (x := s.line l) (.of_eq rfl rfl (.inl rfl)) (hs.line l))

theorem Line.elapse_beginsNothing (n : Nat) (x : Line) : BeginsNothing x (x.elapse n) := by
  refine ⟨id, id, fun h => ?_⟩
  unfold Line.driverEnable at h ⊢
  cases hx : x.access <;> simp_all [Line.elapse, Access.elapse]

theorem Silent.elapse {s : State} (hs : Silent s) (n : Nat) : Silent (s.elapse n) := by
  refine ⟨by simpa using hs.queue, by simpa using hs.ownSeq, fun l => ?_⟩
  have passes : (s.elapse n).line l = s.line l ∨ (s.elapse n).line l = (s.line l).elapse n := by
    unfold State.elapse
    split
    · exact .inl rfl
    · cases l <;> simp only [State.line] <;> split <;> simp
  rcases passes with e | e <;> rw [e]
  exacts [hs.line l, ((s.line l).elapse_beginsNothing n).silent (hs.line l)]

/-- With LISTEN_ONLY set every part keeps the station silent (R19). -/
theorem CorePart.keepsSilent {s t : State} (h : CorePart s t) (hx : s.straps.listenOnly = true) (hs : Silent s) : Silent t := by
  have same (hq : t.txQueue = s.txQueue) (hn : t.ownSeq = s.ownSeq) (ha : t.lineA = s.lineA) (hb : t.lineB = s.lineB) :
      Silent t := by
    refine ⟨hq.trans hs.queue, hn.trans hs.ownSeq, fun l => ?_⟩
    cases l
    exacts [show LineSilent t.lineA from ha ▸ hs.line .a, show LineSilent t.lineB from hb ▸ hs.line .b]
  cases h with
  | side h => obtain ⟨-, -, ha, hb, hq, hn, -⟩ := State.core_eq h; exact same hq hn ha hb
  | elapse n => exact hs.elapse n
  | offer b r p =>
    rw [State.offer_refused (by simp [State.takes, State.offerDecision, hx])]
    exact hs
  | beacon =>
    rw [State.beaconIndication, if_pos (by simp [hx])]
    exact hs
  | line h => exact hs.setLine (h.silent (hs.line _))
  | choose l => exact hs.choose l
  | transmit h => rw [hs.hasWork] at h; cases h
  | thin h => exact ⟨List.eq_nil_of_length_eq_zero (by simpa [hs.queue] using h.length), hs.ownSeq, hs.line⟩
  | arrive f => apply same <;> rw [State.inboundOffer_frame]
  | restart =>
    refine ⟨rfl, hs.ownSeq, fun l => ?_⟩
    cases l <;> exact ⟨rfl, rfl, rfl⟩
  | handOver _ | remember _ _ | forget | clock _ => exact same rfl rfl rfl rfl

/-- A station at the reset values of its lines and its queue is silent. -/
theorem Silent.of_reset {s : State} (hq : s.txQueue = []) (hn : s.ownSeq = 0) (ha : s.lineA = Line.reset)
    (hb : s.lineB = Line.reset) : Silent s := by
  refine ⟨hq, hn, fun l => ?_⟩
  cases l
  · rw [show s.line .a = Line.reset from ha]; exact ⟨rfl, rfl, rfl⟩
  · rw [show s.line .b = Line.reset from hb]; exact ⟨rfl, rfl, rfl⟩

/-- R19: a LISTEN_ONLY station over every step. -/
theorem step_keepsSilent {s t : State} (q : QuietOutsideRun s) (hs : s.straps.listenOnly = true → Silent s)
    (h : step s = .next t) (ht : t.straps.listenOnly = true) : Silent t := by
  rcases step_cases h with ⟨p, h⟩ | ⟨x, d, p, hst, rfl⟩ | ⟨hpath, -⟩
  · obtain rfl := Host.Outcome.next.inj h
    exact .of_reset rfl rfl rfl rfl
  · have hr : s.mode ≠ .run := by rw [hst]; decide
    obtain ⟨-, -, ha, hb, hq, hn, -⟩ := State.core_eq (State.core_release x d { s with pending := p })
    exact .of_reset (hq.trans (q.queue hr).1) (hn.trans (q.queue hr).2) (ha.trans (q.lines hr).1) (hb.trans (q.lines hr).2)
  · rw [hpath.mode_straps.2] at ht
    exact (hpath.keeps (p := fun u => u.straps.listenOnly = true ∧ Silent u)
      (fun h hu => ⟨by rw [h.mode_straps.2]; exact hu.1, h.keepsSilent hu.1 hu.2⟩) ⟨ht, hs ht⟩).2

/-- Settles O17: outside RUN nothing of RUN comes about, and no part begins anything on a silent station. -/
theorem listenOnlyStationStaysSilent : Obligations.ListenOnlyStationStaysSilent := by
  refine ⟨fun _ _ => step_keepsQuiet, fun s t hs h => ?_⟩
  rw [listenOnlySilent_iff] at hs ⊢
  obtain ⟨q, hs⟩ := hs
  exact ⟨step_keepsQuiet q h, step_keepsSilent q hs h⟩

end Sys2Proof.Machine
end

section
/-! PROOFS. How a transmission ends (O13, O14), the stuck line and LINE RESTART (O15). -/

namespace Sys2Proof.Machine

/-! ## ECHO_FAILURE, COLLISION and FRAME_SENT -/

/-- ECHO_FAILURE comes about during a transmission alone. -/
theorem exec_echoFailure {l : LineId} {s : State} (h : (s.line l).driverEnable = true) :
    exec (.echoFailure l) s = .next (
      if (s.line l).st = .check then s.enterDown l
      else s.setLine l { (s.line l).quiet with st := .check, access := .rest }) :=
  congrArg _ (if_pos h)

/-- Settles O13. -/
theorem echoFailureChecksThenTakesDown : Obligations.EchoFailureChecksThenTakesDown := by
  intro l s
  dsimp only
  intro hd
  rw [exec_echoFailure hd]
  refine ⟨fun hup => ?_, fun hcheck => ?_⟩
  · rw [if_neg (by rw [hup]; decide)]
    rfl
  · rw [if_pos hcheck]
    cases l <;> rfl

/-- So does COLLISION. -/
theorem exec_collision {l : LineId} {s : State} (h : (s.line l).driverEnable = true) :
    exec (.collision l) s = .next (s.collide l) := congrArg _ (if_pos h)

/-- A beacon that is current is finished with its due mark cleared (R8, R9). -/
theorem Line.finishBeacon_of_current {x : Line} (h : x.beaconCurrent = true) :
    x.finishBeacon = { x with beaconDue := false } := by
  simp [Line.finishBeacon, h]

/-- Any other due mark stays. -/
theorem Line.finishBeacon_of_not_current {x : Line} (h : x.beaconCurrent = false) : x.finishBeacon = x := by
  cases x
  simp_all [Line.finishBeacon]

/-- An engine that holds no beacon is released with what it has. -/
theorem Line.release_of_not_current {x : Line} (h : x.beaconCurrent = false) :
    x.release = { x with access := .rest, collisions := 0, window := 16 } := by
  unfold Line.release
  rw [← h]

/-- R7, R8: the eighth collision abandons the frame on this line; one before it begins a new access cycle. -/
theorem collisionBacksOffThenAbandons : Claims.CollisionBacksOffThenAbandons := by
  intro l s
  dsimp only
  intro hd
  rw [exec_collision hd]
  unfold State.collide
  dsimp only
  refine ⟨fun hfew => ?_, fun hmany hb => ?_, fun hmany hb => ?_⟩
  · rw [if_pos (by omega)]
  · rw [if_neg (by omega), if_pos hb, Line.finishBeacon_of_current hb]
    rfl
  · rw [if_neg (by omega), if_neg (by simp [hb]), Line.finishBeacon_of_not_current hb, Line.release_of_not_current hb]
    rfl

/-- FRAME_SENT once the last bit has been driven (R183). -/
theorem exec_frameSent {l : LineId} {s : State} {bytes : List Byte} {e : Nat} (h : (s.line l).access = .sending bytes e)
    (he : frameBitTimes bytes.length * s.bitTime ≤ e) : exec (.frameSent l) s = .next (s.sentOn l) := by
  have hw : s.sentWait l = some 0 := by simp [State.sentWait, h, Nat.sub_eq_zero_of_le he]
  show Host.Outcome.next (s.after (s.sentWait l) _) = _
  rw [hw, State.after_due]

/-- R13: what the last byte of a frame leaves of the carrier. -/
theorem Line.frameOver_eq (x : Line) : x.frameOver = { x with
    carrier := false, carrierTime := 0, idleTime := 0, pastFrame := if x.carrier then some x.carrierTime else none } := rfl

/-- R9, R11: the frame is finished on this line and the engine released. -/
theorem frameSentReleasesTheEngine : Claims.FrameSentReleasesTheEngine := by
  intro l s bytes e
  dsimp only
  intro ha he
  rw [exec_frameSent ha he]
  unfold State.sentOn
  dsimp only
  refine ⟨fun hb => ?_, fun hb => ?_⟩
  · rw [if_pos hb, Line.finishBeacon_of_current hb]
    rfl
  · rw [if_neg (c := (s.line l).beaconCurrent = true) (by simp [hb]), Line.finishBeacon_of_not_current hb,
      Line.release_of_not_current hb]
    rfl

/-- Settles O14. -/
theorem transmissionEndsInCollisionOrSent : Obligations.TransmissionEndsInCollisionOrSent :=
  ⟨collisionBacksOffThenAbandons, frameSentReleasesTheEngine⟩

/-! ## The stuck line -/

/-- CARRIER_STUCK where the measurement is at its limit already. -/
theorem exec_carrierStuck {l : LineId} {s : State} (h : s.stuckWait l = some 0) :
    exec (.carrierStuck l) s = .next ((s.setLine l ((s.line l).carrierUnbroken s.stuckLimit)).enterStuck l) := by
  show Host.Outcome.next (match s.stuckWait l with | some n => _ | none => _) = _
  rw [h]
  rfl

/-- CARRIER_STUCK that does not come about. -/
theorem exec_carrierStuck_none {l : LineId} {s : State} (h : s.stuckWait l = none) : exec (.carrierStuck l) s = .next s := by
  show Host.Outcome.next (match s.stuckWait l with | some n => _ | none => _) = _
  rw [h]

/-- On a line that the station does not drive, CARRIER_STUCK goes by the unbroken carrier and by nothing else of the line. -/
theorem exec_carrierStuck_released {l : LineId} {s : State} (hr : s.running = true) (hm : (s.line l).monitored = true)
    (hd : (s.line l).driverEnable = false) :
    exec (.carrierStuck l) s = .next ((s.setLine l ((s.line l).carrierUnbroken s.stuckLimit)).after
      (some (s.stuckLimit - ((s.line l).carrierUnbroken s.stuckLimit).carrierTime)) (State.enterStuck l)) := by
  show Host.Outcome.next (match s.stuckWait l with | some n => _ | none => _) = _
  rw [State.stuckWait_released hr hm hd]

/-- The carrier that CARRIER_STUCK tells of is there, and leaves state and engine of the line alone. -/
theorem Line.carrierUnbroken_keeps (limit : Nat) (x : Line) :
    (x.carrierUnbroken limit).carrier = true ∧ (x.carrierUnbroken limit).monitored = x.monitored ∧
      (x.carrierUnbroken limit).driverEnable = x.driverEnable := by
  rcases x.carrierUnbroken_cases limit with ⟨hc, e⟩ | ⟨n, -, -, -, e⟩ | ⟨-, -, e⟩ <;> rw [e]
  exacts [⟨hc, rfl, rfl⟩, ⟨rfl, rfl, rfl⟩, ⟨rfl, rfl, rfl⟩]

@[simp] theorem State.stuckLimit_setLine (l : LineId) (x : Line) (s : State) : (s.setLine l x).stuckLimit = s.stuckLimit := by
  simp [State.stuckLimit, State.bitTime]

/-- Taking the unbroken carrier as recorded first makes no difference to CARRIER_STUCK. -/
theorem exec_carrierStuck_recorded {l : LineId} {s : State} (hr : s.running = true) (hm : (s.line l).monitored = true)
    (hd : (s.line l).driverEnable = false) :
    exec (.carrierStuck l) s = exec (.carrierStuck l) (s.setLine l ((s.line l).carrierUnbroken s.stuckLimit)) := by
  obtain ⟨kc, km, kd⟩ := (s.line l).carrierUnbroken_keeps s.stuckLimit
  rw [exec_carrierStuck_released hr hm hd, exec_carrierStuck_released (by simpa [State.running] using hr)]
  · simp only [State.line_setLine, State.stuckLimit_setLine, Line.carrierUnbroken_of_carrier _ kc, State.setLine_setLine]
  · rw [State.line_setLine, km, hm]
  · rw [State.line_setLine, kd, hd]

/-- R13: with carrier at the limit the line is stuck now, whatever is left of a transmission. -/
theorem State.stuckWait_due {l : LineId} {s : State} (hr : s.running = true) (hm : (s.line l).monitored = true)
    (hc : (s.line l).carrier = true) (ht : 10000 * s.bitTime ≤ (s.line l).carrierTime) : s.stuckWait l = some 0 := by
  simp [State.stuckWait, Line.carrierUnbroken_of_carrier _ hc, State.stuckLimit, Nat.sub_eq_zero_of_le ht, hr, hm, onlyIf]

/-- R14: a STUCK line that has been idle for 50,000 bit-times. -/
theorem exec_stuckLineRecovery {l : LineId} {s : State} (hr : s.running = true) (hst : (s.line l).st = .stuck)
    (hc : (s.line l).carrier = false) (hi : 50000 * s.bitTime ≤ (s.line l).idleTime) :
    exec (.stuckLineRecovery l) s =
      .next (s.setLine l { s.line l with pastFrame := none, rx := none : Line }.recover) := by
  have hseen : (s.line l).idleFromNow = { s.line l with pastFrame := none, rx := none } := by simp [Line.idleFromNow, hc]
  refine congrArg _ ((if_pos (by simp [hr, hst])).trans ?_)
  rw [hseen]
  simp only [Nat.sub_eq_zero_of_le hi, State.after_due, State.line_setLine, State.setLine_setLine]

/-- R13, R14. -/
theorem stuckLineIsGivenUpAndRecovers : Claims.StuckLineIsGivenUpAndRecovers := by
  intro l s
  dsimp only
  intro hr
  refine ⟨fun bytes e ha hb hc hle hlt => exec_carrierStuck_none (State.stuckWait_sending ha hb hc hle hlt),
    fun hm hd hc => ⟨fun n hn hle => ?_, fun hn => ?_⟩, fun hm hc ht => ?_, fun hst hc hi => ?_⟩
  · have hle : n ≤ s.stuckLimit := hle
    rw [exec_carrierStuck_recorded hr hm hd]
    simp [Line.carrierUnbroken, hc, hn, hle, Line.busy]
  · rw [exec_carrierStuck_recorded hr hm hd]
    cases hp : (s.line l).pastFrame with
    | none => simp [Line.carrierUnbroken, hc, hp, Line.busy]
    | some n =>
      have hlt : ¬n ≤ s.stuckLimit := Nat.not_le.2 (hn n hp)
      simp [Line.carrierUnbroken, hc, hp, hlt, Line.busy]
  · rw [exec_carrierStuck (State.stuckWait_due hr hm hc ht), Line.carrierUnbroken_of_carrier _ hc, State.setLine_line]
    cases l <;> rfl
  · rw [exec_stuckLineRecovery hr hst hc hi]
    rfl

/-! ## LINE RESTART -/

/-- R20, R35, R43. -/
theorem lineRestartCleansTheLines : Claims.LineRestartCleansTheLines := by
  intro s body hready
  show Host.Outcome.next (s.request 0x0B true inRun _) = _
  rw [State.request_carried hready.enabled hready.free (by rw [hready.mode]; decide) rfl (by rw [hready.mode]; rfl)]
  rfl

/-- Settles O15. -/
theorem stuckLinesAndLineRestart : Obligations.StuckLinesAndLineRestart :=
  ⟨stuckLineIsGivenUpAndRecovers, lineRestartCleansTheLines⟩

end Sys2Proof.Machine
end

section
/-! PROOFS. How an offer to the Transmit Queue is decided (O16), and what reset leaves (O10). -/

namespace Sys2Proof.Machine

/-! ## Offers -/

theorem Body.isCondition_iff (b : Body) : b.isCondition = true ↔ ∃ c n, b = .condition c n := by
  cases b <;> simp [Body.isCondition]

/-- R17: the frames that a CONDITION frame replaces. -/
theorem TxFrame.replaceable_iff (f : TxFrame) :
    f.replaceable = true ↔ (∃ c n, f.body = .condition c n) ∧ f.started = false := by
  simp [TxFrame.replaceable, Body.isCondition_iff]

/-- R16: a new frame is PENDING on a line in UP or CHECK. -/
theorem Line.freshMark_eq (x : Line) : x.freshMark = if x.st = .up ∨ x.st = .check then .pending else .abandoned := by
  simp [Line.freshMark, Line.monitored]

/-- R16, R19: no frame is taken with LISTEN_ONLY, outside RUN, or with both lines DOWN. -/
theorem State.offerDecision_closed {b : Body} {s : State}
    (h : s.straps.listenOnly = true ∨ s.mode ≠ .run ∨ (s.lineA.st = .down ∧ s.lineB.st = .down)) :
    s.offerDecision b = .refused := by
  rcases h with h | h | h
  · simp [State.offerDecision, h]
  · simp [State.offerDecision, State.running, h]
  · simp [State.offerDecision, h]

/-- R16, R17: elsewhere a CONDITION frame replaces one that waits unstarted; otherwise there is room for 16 frames. -/
theorem State.offerDecision_open {b : Body} {s : State} (hlisten : s.straps.listenOnly = false) (hrun : s.mode = .run)
    (hup : ¬(s.lineA.st = .down ∧ s.lineB.st = .down)) :
    s.offerDecision b =
      if b.isCondition && s.txQueue.any TxFrame.replaceable then .replaced
      else if 16 ≤ s.txQueue.length then .refused else .appended := by
  rw [State.offerDecision, if_neg (by simp [hlisten, State.running, hrun]), if_neg hup]

/-- A refused offer. -/
theorem State.offer_of_refused {b : Body} {s : State} (h : s.offerDecision b = .refused) (r p : Bool) :
    s.takes b = false ∧ s.offer b r p = s := by
  have ht : s.takes b = false := by simp [State.takes, h]
  exact ⟨ht, State.offer_refused ht r p⟩

/-- Rewriting the frames with a property in a queue that holds one. -/
theorem map_if_single {p : TxFrame → Bool} {g : TxFrame → TxFrame} {older newer : List TxFrame} {f : TxFrame} (hf : p f = true)
    (h : ∀ x ∈ older ++ newer, p x = false) :
    (older ++ f :: newer).map (fun x => if p x then g x else x) = older ++ g f :: newer := by
  have keep : ∀ q : List TxFrame, (∀ x ∈ q, p x = false) → q.map (fun x => if p x then g x else x) = q := fun q hq =>
    (List.map_congr_left fun x hx => by simp [hq x hx]).trans (List.map_id q)
  rw [List.map_append, List.map_cons, if_pos hf, keep older fun x hx => h x (List.mem_append_left _ hx),
    keep newer fun x hx => h x (List.mem_append_right _ hx)]

/-- Settles O16. -/
theorem offerIsDecidedInOrder : Obligations.OfferIsDecidedInOrder := by
  intro s b refresh prompt
  dsimp only
  refine ⟨fun h => State.offer_of_refused (State.offerDecision_closed h) _ _, fun hlisten hrun hup => ?_⟩
  have hdec := State.offerDecision_open (b := b) hlisten hrun hup
  simp only [← TxFrame.replaceable_iff, ← Line.freshMark_eq]
  simp only [← Body.isCondition_iff]
  have hnone (h : ∀ f ∈ s.txQueue, b.isCondition = true → ¬f.replaceable = true) :
      (b.isCondition && s.txQueue.any TxFrame.replaceable) = false := by
    rw [Bool.and_eq_false_imp]
    exact fun hb => by simpa using fun f hf => h f hf hb
  refine ⟨fun older f newer hb hq hold hothers => ?_, fun h hfull => ?_, fun h hroom => ?_⟩
  · have hrep : s.offerDecision b = .replaced := by
      rw [hdec, if_pos (by simp [hb, hq, hold])]
    refine ⟨by simp [State.takes, hrep], ?_⟩
    simp only [State.offer, hrep]
    rw [hq, map_if_single hold fun x hx => by simpa using hothers x hx]
    rfl
  · refine State.offer_of_refused ?_ _ _
    rw [hdec, hnone h, if_neg (by decide), if_pos hfull]
  · have happ : s.offerDecision b = .appended := by
      rw [hdec, hnone h, if_neg (by decide), if_neg (by omega)]
    refine ⟨by simp [State.takes, happ], ?_⟩
    simp only [State.offer, happ]
    rfl

/-! ## Reset -/

/-- What reset leaves, value by value. -/
theorem resetStateHoldsTheStatedValues : Claims.ResetStateHoldsTheStatedValues := by
  refine ⟨by decide, fun l => ?_, by decide, by decide, by decide, by decide, by decide, by decide, by decide⟩
  cases l <;> decide

/-- The reset state is quiet. -/
theorem quietOutsideRun_reset : QuietOutsideRun State.reset := .assert (s := State.reset) rfl

/-- Every invariant holds right after reset: nothing is held, no timer runs, no request is in hand. -/
theorem resetMeetsEveryInvariant : Claims.ResetMeetsEveryInvariant := by
  have q := quietOutsideRun_reset
  refine ⟨?_, ?_, ?_, ?_, ?_, ?_, ?_, ?_, ?_, ?_, ?_, ?_⟩
  · exact ⟨rfl, by simp [State.reset], rfl, by simp [State.reset]⟩
  · exact (queueOk_iff _).2 ⟨by decide, by decide, by decide⟩
  · exact ⟨by decide, by decide, by decide, by decide⟩
  · exact ⟨by decide, by decide, by decide, by decide, by decide, by decide, by decide⟩
  · exact ⟨q, by decide, by decide, by decide, by decide, by simp [State.reset, RouteEngine.reset], by
      simp [State.reset, RouteEngine.reset]⟩
  · exact (listenOnlySilent_iff _).2 ⟨q, fun _ => .of_reset rfl rfl rfl rfl⟩
  · exact ⟨by decide, by decide, by decide, by decide, by decide, by decide⟩
  · exact ⟨by decide, by decide, by decide, fun _ => ⟨rfl, rfl⟩, rfl, rfl⟩
  · exact ⟨q, by decide, by decide, by decide, by decide⟩
  · exact ⟨by decide, by decide⟩
  · exact ⟨q, by decide, by decide, by decide, by decide, by decide⟩
  · simp [LevelBelowAny, State.reset, RouteEngine.reset]

/-- Settles O10. -/
theorem resetStateIsAsStatedAndSound : Obligations.ResetStateIsAsStatedAndSound :=
  ⟨resetStateHoldsTheStatedValues, resetMeetsEveryInvariant⟩

end Sys2Proof.Machine
end

section
/-! PROOFS. The access cycle: the choice of a frame, the back-off's end (O12), and idle and busy lines (O11). -/

namespace Sys2Proof.Machine

/-! ## What the access cycle reads of a line -/

@[simp] theorem State.withQueue_txQueue_self (s : State) : s.withQueue s.txQueue = s := rfl

theorem State.setLine_withQueue (l : LineId) (x : Line) (q : List TxFrame) (s : State) :
    (s.setLine l x).withQueue q = (s.withQueue q).setLine l x := by cases l <;> rfl

@[simp] theorem State.bitTime_setLine (l : LineId) (x : Line) (s : State) : (s.setLine l x).bitTime = s.bitTime := by
  cases l <;> rfl

@[simp] theorem State.slotTime_setLine (l : LineId) (x : Line) (s : State) : (s.setLine l x).slotTime = s.slotTime := by
  cases l <;> rfl

@[simp] theorem State.running_setLine (l : LineId) (x : Line) (s : State) : (s.setLine l x).running = s.running := by
  cases l <;> rfl

/-- Work on a line depends on its state and its beacon marks, and on the queue (R3). -/
theorem State.hasWork_setLine {l : LineId} {x : Line} {s : State} (hst : x.st = (s.line l).st)
    (hd : x.beaconDue = (s.line l).beaconDue) (hc : x.beaconCurrent = (s.line l).beaconCurrent) :
    (s.setLine l x).hasWork l = s.hasWork l := by
  simp only [State.hasWork, State.line_setLine, State.setLine_txQueue, Line.monitored, hst, hd, hc]

theorem State.hasWork_of_beacon {l : LineId} {s : State} (hm : (s.line l).monitored = true)
    (h : (s.line l).beaconDue = true ∨ (s.line l).beaconCurrent = true) : s.hasWork l = true := by
  rcases h with h | h <;> simp [State.hasWork, hm, h]

theorem State.hasWork_of_pending {l : LineId} {s : State} {f : TxFrame} (hm : (s.line l).monitored = true)
    (hf : f ∈ s.txQueue) (h : f.mark l = .pending) : s.hasWork l = true := by
  have : s.txQueue.any (fun f => decide (f.mark l = .pending)) = true := List.any_eq_true.2 ⟨f, hf, decide_eq_true h⟩
  simp [State.hasWork, hm, this]

/-! ## The choice of a frame (R5) -/

theorem State.holdsCurrent_false {l : LineId} {s : State} (hb : (s.line l).beaconCurrent = false)
    (hq : ∀ f ∈ s.txQueue, f.current l = false) : s.holdsCurrent l = false := by
  simpa [State.holdsCurrent, hb] using hq

theorem State.choose_of_holds {l : LineId} {s : State} (h : s.holdsCurrent l = true) : s.choose l = s := if_pos h

theorem State.choose_of_due {l : LineId} {s : State} (h : s.holdsCurrent l = false) (hd : (s.line l).beaconDue = true) :
    s.choose l = s.setLine l { s.line l with beaconCurrent := true, collisions := 0, window := 16 } := by
  rw [State.choose, if_neg (by simp [h]), if_pos hd]

/-- The first frame with a property, changed where it stands. -/
theorem changeFirst_append {p : TxFrame → Bool} {g : TxFrame → TxFrame} {older newer : List TxFrame} {f : TxFrame}
    (ho : ∀ x ∈ older, p x = false) (hf : p f = true) : changeFirst p g (older ++ f :: newer) = older ++ g f :: newer := by
  induction older with
  | nil => simp [changeFirst, hf]
  | cons x older ih =>
    rw [List.forall_mem_cons] at ho
    simp [changeFirst, ho.1, ih ho.2]

theorem State.choose_of_pending {l : LineId} {s : State} {older newer : List TxFrame} {f : TxFrame} (h : s.holdsCurrent l = false)
    (hd : (s.line l).beaconDue = false) (hq : s.txQueue = older ++ f :: newer) (ho : ∀ g ∈ older, g.mark l ≠ .pending)
    (hf : f.mark l = .pending) :
    s.choose l = (s.withQueue (older ++ f.setMark l .pending true :: newer)).setLine l
      { s.line l with collisions := 0, window := 16 } := by
  rw [State.choose, if_neg (by simp [h]), if_neg (by simp [hd]), hq,
    changeFirst_append (fun x hx => by simpa using ho x hx) (by simpa using hf)]

/-! ## The bytes of the current frame (R1, R2, R182) -/

/-- A beacon is built from the clock as it stands (R2, R42). -/
theorem State.currentBytes_beacon {l : LineId} {s : State} (h : (s.line l).beaconCurrent = true) :
    s.currentBytes l = frameBytes 1 0x00 s.settings.stationId (s.line l).beaconSeq
      ([byte s.time.epoch, byte s.time.day] ++ be32 s.time.ms ++ [if s.time.sync = .coasting then 0x02 else 0x01]) := by
  rw [State.currentBytes, if_pos h]
  simp only [State.bytesOf, TimeUnit.beaconBody, encodeBody, decide_eq_true_eq]
  rfl

theorem State.currentBytes_queued {l : LineId} {s : State} {older newer : List TxFrame} {f : TxFrame}
    (hb : (s.line l).beaconCurrent = false) (hq : s.txQueue = older ++ f :: newer) (ho : ∀ g ∈ older, g.current l = false)
    (hf : f.current l = true) :
    s.currentBytes l = frameBytes f.body.kindCode (frameFlags f.refresh f.prompt) s.settings.stationId f.seq
      (encodeBody f.body) := by
  have hfind : s.txQueue.find? (·.current l) = some f := by
    rw [hq, List.find?_append, List.find?_eq_none.2 fun x hx => by simp [ho x hx]]
    simp [hf]
  rw [State.currentBytes, if_neg (by simp [hb]), hfind]
  rfl

/-! ## A transmission begins -/

/-- A queue with no current frame has none to start. -/
theorem map_start_none {l : LineId} {q : List TxFrame} (h : ∀ f ∈ q, f.current l = false) :
    q.map (fun f => if f.current l then { f with started := true } else f) = q :=
  (List.map_congr_left fun f hf => by simp [h f hf]).trans (List.map_id q)

theorem State.transmit_eq {l : LineId} {s t : State} (h : s.choose l = t) :
    s.transmit l = (t.withQueue (t.txQueue.map fun f => if f.current l then { f with started := true } else f)).setLine l
      ((t.line l).beginSending (t.currentBytes l)) := by
  rw [State.transmit, h]

/-- The current beacon is sent. -/
theorem State.transmit_beacon {l : LineId} {s t : State} (h : s.choose l = t) (hb : (t.line l).beaconCurrent = true)
    (hq : ∀ f ∈ t.txQueue, f.current l = false) :
    s.transmit l = t.setLine l ((t.line l).beginSending (frameBytes 1 0x00 t.settings.stationId (t.line l).beaconSeq
      ([byte t.time.epoch, byte t.time.day] ++ be32 t.time.ms ++ [if t.time.sync = .coasting then 0x02 else 0x01]))) := by
  rw [State.transmit_eq h, map_start_none hq, State.currentBytes_beacon hb, State.withQueue_txQueue_self]

/-- The current frame of the queue is started and sent. -/
theorem State.transmit_queued {l : LineId} {s t : State} {older newer : List TxFrame} {f : TxFrame} (h : s.choose l = t)
    (hb : (t.line l).beaconCurrent = false) (hq : t.txQueue = older ++ f :: newer)
    (ho : ∀ g ∈ older ++ newer, g.current l = false) (hf : f.current l = true) :
    s.transmit l = (t.withQueue (older ++ { f with started := true } :: newer)).setLine l ((t.line l).beginSending
      (frameBytes f.body.kindCode (frameFlags f.refresh f.prompt) t.settings.stationId f.seq (encodeBody f.body))) := by
  rw [State.transmit_eq h, State.currentBytes_queued hb hq (fun g hg => ho g (List.mem_append_left _ hg)) hf, hq,
    map_if_single (p := fun f => f.current l) hf ho]

/-! ## BACKOFF_EXPIRY -/

/-- BACKOFF_EXPIRY once the count has run out. -/
theorem exec_backoffExpiry {l : LineId} {s : State} {k e : Nat} (hr : s.running = true)
    (ha : (s.line l).access = .counting k e) (he : k * s.slotTime ≤ e) :
    exec (.backoffExpiry l) s = .next (s.countDone l) := by
  have hw : s.backoffWait l = some 0 := by simp [State.backoffWait, ha, onlyIf, hr, Nat.sub_eq_zero_of_le he]
  show Host.Outcome.next (s.after (s.backoffWait l) _) = _
  rw [hw, State.after_due]

theorem State.countDone_idle {l : LineId} {s : State} (hw : s.hasWork l = true) (hc : (s.line l).carrier = false) :
    s.countDone l = s.transmit l := by
  rw [State.countDone, if_neg (by simp [hw]), if_neg (by simp [hc])]

theorem State.countDone_busy {l : LineId} {s : State} (hw : s.hasWork l = true) (hc : (s.line l).carrier = true) :
    s.countDone l = (s.setLine l { s.line l with access := .suspended 0 }).choose l := by
  rw [State.countDone, if_neg (by simp [hw]), if_pos hc]

@[simp] theorem TxFrame.current_setMark (l : LineId) (m : Mark) (cur : Bool) (f : TxFrame) :
    (f.setMark l m cur).current l = cur := by cases l <;> rfl

/-- What a frame is sent as does not depend on its marks. -/
theorem TxFrame.setMark_content (l : LineId) (m : Mark) (cur : Bool) (f : TxFrame) :
    (f.setMark l m cur).body = f.body ∧ (f.setMark l m cur).refresh = f.refresh ∧ (f.setMark l m cur).prompt = f.prompt ∧
      (f.setMark l m cur).seq = f.seq := by
  cases l <;> exact ⟨rfl, rfl, rfl, rfl⟩

/-- R2, R5 to R7, R10, R16, R42: on an idle line the frame is sent. -/
theorem backoffExpirySendsOnAnIdleLine : Claims.BackoffExpirySendsOnAnIdleLine := by
  intro l s k e
  dsimp only
  intro hr hm ha he hc
  rw [exec_backoffExpiry hr ha he]
  refine ⟨fun hb hq => ?_, fun hb hd hq => ?_, fun older f newer hb hd hcur hq ho hf => ?_,
    fun older f newer hb hq ho hf hp => ?_⟩
  · rw [State.countDone_idle (State.hasWork_of_beacon hm (.inr hb)) hc,
      State.transmit_beacon (State.choose_of_holds (by simp [State.holdsCurrent, hb])) hb hq]
    rfl
  · rw [State.countDone_idle (State.hasWork_of_beacon hm (.inl hd)) hc,
      State.transmit_beacon (State.choose_of_due (State.holdsCurrent_false hb hq) hd) (by simp) (by simpa using hq)]
    simp only [State.line_setLine, State.setLine_setLine, State.setLine_settings, State.setLine_time]
    rfl
  · have hmem : f ∈ s.txQueue := by simp [hq]
    have hothers : ∀ g ∈ older ++ newer, g.current l = false := fun g hg => hcur g (by
      rw [hq]
      simp only [List.mem_append, List.mem_cons] at hg ⊢
      tauto)
    obtain ⟨hbody, hrefresh, hprompt, hseq⟩ := f.setMark_content l .pending true
    rw [State.countDone_idle (State.hasWork_of_pending hm hmem hf) hc,
      State.transmit_queued (f := f.setMark l .pending true)
        (State.choose_of_pending (State.holdsCurrent_false hb hcur) hd hq ho hf) (by simpa using hb) (by simp) hothers
        (TxFrame.current_setMark ..), hbody, hrefresh, hprompt, hseq, State.setLine_withQueue, State.setLine_setLine]
    simp only [State.line_setLine, State.setLine_settings, State.withQueue_settings]
    rfl
  · have hmem : f ∈ s.txQueue := by simp [hq]
    have hholds : s.holdsCurrent l = true := by
      simp only [State.holdsCurrent, hb, Bool.false_or, List.any_eq_true]
      exact ⟨f, hmem, hf⟩
    rw [State.countDone_idle (State.hasWork_of_pending hm hmem hp) hc,
      State.transmit_queued (State.choose_of_holds hholds) hb hq ho hf]
    rfl

/-- R3 to R6: with no work the cycle ends; on a busy line the frame is chosen and waits. -/
theorem backoffExpiryWaitsOnABusyLine : Claims.BackoffExpiryWaitsOnABusyLine := by
  intro l s k e
  dsimp only
  intro hr ha he
  rw [exec_backoffExpiry hr ha he]
  refine ⟨fun hw => ?_, fun hm hc => ⟨fun hb => ?_, fun f hmem hf hp => ?_, fun hb hcur => ⟨fun hd => ?_,
    fun older f newer hd hq ho hf => ?_⟩⟩⟩
  · rw [State.countDone, if_pos (by simp [hw])]
  · rw [State.countDone_busy (State.hasWork_of_beacon hm (.inr hb)) hc,
      State.choose_of_holds (by simp [State.holdsCurrent, hb])]
  · have hany : s.txQueue.any (·.current l) = true := List.any_eq_true.2 ⟨f, hmem, hf⟩
    rw [State.countDone_busy (State.hasWork_of_pending hm hmem hp) hc,
      State.choose_of_holds (by simp [State.holdsCurrent, hany])]
  · rw [State.countDone_busy (State.hasWork_of_beacon hm (.inl hd)) hc,
      State.choose_of_due (State.holdsCurrent_false (by simpa using hb) (by simpa using hcur)) (by simpa using hd)]
    simp only [State.line_setLine, State.setLine_setLine]
  · have hmem : f ∈ s.txQueue := by simp [hq]
    rw [State.countDone_busy (State.hasWork_of_pending hm hmem hf) hc,
      State.choose_of_pending (State.holdsCurrent_false (by simpa using hb) (by simpa using hcur)) (by simpa using hd)
        (by simpa using hq) ho hf, State.setLine_withQueue, State.setLine_setLine]
    simp only [State.line_setLine]

/-- Settles O12. -/
theorem backoffExpiryBeginsATransmission : Obligations.BackoffExpiryBeginsATransmission :=
  ⟨backoffExpirySendsOnAnIdleLine, backoffExpiryWaitsOnABusyLine⟩

end Sys2Proof.Machine
end

section
/-! PROOFS. Idle and busy lines: how the back-off is started, suspended and resumed (O11). -/

namespace Sys2Proof.Machine

/-! ## The engine's count makes no difference to a transmission -/

/-- The line with another count. -/
def Line.withAccess (a : Access) (x : Line) : Line := { x with access := a }

/-- The choice of a frame neither reads nor changes the count. -/
theorem State.choose_withAccess (l : LineId) (a : Access) (s : State) :
    (s.setLine l ((s.line l).withAccess a)).choose l = (s.choose l).setLine l (((s.choose l).line l).withAccess a) := by
  have hholds : (s.setLine l ((s.line l).withAccess a)).holdsCurrent l = s.holdsCurrent l := by
    simp [State.holdsCurrent, Line.withAccess]
  have hdue : ((s.setLine l ((s.line l).withAccess a)).line l).beaconDue = (s.line l).beaconDue := by simp [Line.withAccess]
  unfold State.choose
  rw [hholds, hdue]
  split
  · rfl
  · split <;> cases l <;> rfl

/-- Nor does a transmission depend on it. -/
theorem State.transmit_withAccess (l : LineId) (a : Access) (s : State) :
    (s.setLine l ((s.line l).withAccess a)).transmit l = s.transmit l := by
  rw [State.transmit_eq (State.choose_withAccess l a s), State.transmit_eq rfl]
  generalize s.choose l = t
  cases l <;> rfl

/-- An engine with work whose count is 0 does on an idle line what BACKOFF_EXPIRY does. -/
theorem exec_backoffExpiry_zero {l : LineId} {s : State} (hr : s.running = true) (hw : s.hasWork l = true)
    (hc : (s.line l).carrier = false) :
    exec (.backoffExpiry l) (s.setLine l ((s.line l).withAccess (.counting 0 0))) = .next (s.transmit l) := by
  rw [exec_backoffExpiry (k := 0) (e := 0) (by simpa using hr) (by simp [Line.withAccess]) (by simp),
    State.countDone_idle ((State.hasWork_setLine (by rfl) (by rfl) (by rfl)).trans hw) (by simpa [Line.withAccess] using hc),
    State.transmit_withAccess]

/-! ## After the idle gap -/

theorem State.afterGap_noWork {l : LineId} {draw : Nat} {s : State} (hw : s.hasWork l = false)
    (hd : (s.line l).driverEnable = false) : s.afterGap l draw = s.setLine l ((s.line l).withAccess .rest) := by
  rw [State.afterGap, if_pos (by simp [hw]), if_neg (by simp [hd])]
  rfl

/-- R3, R4: what an engine with work does after the gap. -/
theorem State.afterGap_work {l : LineId} {draw : Nat} {s : State} (hw : s.hasWork l = true) :
    s.afterGap l draw =
      match (s.line l).access with
      | .rest =>
        if draw % (s.line l).window = 0 then s.transmit l
        else s.setLine l ((s.line l).withAccess (.counting (draw % (s.line l).window) 0))
      | .suspended slots => if slots = 0 then s.transmit l else s.setLine l ((s.line l).withAccess (.counting slots 0))
      | .counting _ _ => s
      | .sending _ _ => s := by
  rw [State.afterGap, if_neg (by simp [hw])]
  rfl

/-- The five courses of an idle gap, at the moment it is full. -/
structure GapCourses (l : LineId) (draw : Nat) (t : State) (out : Result) : Prop where
  noWork : t.hasWork l = false → out = .next (t.setLine l ((t.line l).withAccess .rest))
  draws : t.hasWork l = true → (t.line l).access = .rest → draw % (t.line l).window ≠ 0 →
    out = .next (t.setLine l ((t.line l).withAccess (.counting (draw % (t.line l).window) 0)))
  resumes : ∀ k, t.hasWork l = true → (t.line l).access = .suspended k → k ≠ 0 →
    out = .next (t.setLine l ((t.line l).withAccess (.counting k 0)))
  goesOn : ∀ k e, t.hasWork l = true → (t.line l).access = .counting k e → out = .next t
  sends : t.hasWork l = true →
    ((t.line l).access = .rest ∧ draw % (t.line l).window = 0 ∨ (t.line l).access = .suspended 0) →
    out = exec (.backoffExpiry l) (t.setLine l ((t.line l).withAccess (.counting 0 0)))

theorem gapCourses_afterGap {l : LineId} {draw : Nat} {t : State} (hr : t.running = true)
    (hd : (t.line l).driverEnable = false) (hc : (t.line l).carrier = false) :
    GapCourses l draw t (.next (t.afterGap l draw)) where
  noWork hw := by rw [State.afterGap_noWork hw hd]
  draws hw ha hdraw := by rw [State.afterGap_work hw, ha]; exact congrArg _ (if_neg hdraw)
  resumes k hw ha hk := by rw [State.afterGap_work hw, ha]; exact congrArg _ (if_neg hk)
  goesOn k e hw ha := by rw [State.afterGap_work hw, ha]
  sends hw ha := by
    rw [exec_backoffExpiry_zero hr hw hc, State.afterGap_work hw]
    rcases ha with ⟨ha, hdraw⟩ | ha <;> rw [ha]
    · exact congrArg _ (if_pos hdraw)
    · rfl

/-! ## LINE_IDLE_GAP -/

/-- What is left of the 12 bit-times, in µs. -/
def State.gapLeft (l : LineId) (s : State) : Nat := 12 * s.bitTime - (s.line l).idleFromNow.idleTime

/-- The state as the gap is full. -/
def State.gapFull (l : LineId) (s : State) : State := (s.setLine l (s.line l).idleFromNow).elapse (s.gapLeft l)

theorem exec_lineIdleGap {l : LineId} {draw : Nat} {s : State} (hr : s.running = true)
    (hd : (s.line l).driverEnable = false) :
    exec (.lineIdleGap l draw) s = .next ((s.gapFull l).afterGap l draw) :=
  congrArg _ (if_pos (by simp [hr, hd]))

theorem Line.elapse_zero (x : Line) : x.elapse 0 = x := by
  cases x with | _ st collisions window access => cases access <;> simp [Line.elapse, Access.elapse, countOn]

/-- In RUN time passes on the lines. -/
theorem State.line_elapse {s : State} (hr : s.running = true) (n : Nat) (l : LineId) :
    (s.elapse n).line l = (s.line l).elapse n := by
  unfold State.elapse
  split
  · subst_vars
    exact (Line.elapse_zero _).symm
  · cases l <;> simp [State.line]

/-- A line measured idle. -/
theorem Line.idleFromNow_eq (x : Line) : x.idleFromNow = { x with
    carrier := false, carrierTime := if x.carrier then 0 else x.carrierTime, pastFrame := none
    idleTime := if x.carrier then 0 else x.idleTime, rx := none } := by
  unfold Line.idleFromNow
  cases hc : x.carrier
  · cases x; simp_all
  · rfl

/-- The line as the gap is full. -/
theorem State.line_gapFull {l : LineId} {s : State} (hr : s.running = true) :
    (s.gapFull l).line l = { (s.line l).idleFromNow with
      idleTime := (s.line l).idleFromNow.idleTime + s.gapLeft l, access := (s.line l).access.elapse (s.gapLeft l) } := by
  rw [State.gapFull, State.line_elapse (by simpa using hr), State.line_setLine, Line.idleFromNow_eq]
  simp [Line.elapse, countOn]

theorem Access.elapse_sending (n : Nat) (a : Access) :
    (∃ bytes e, a.elapse n = .sending bytes e) ↔ ∃ bytes e, a = .sending bytes e := by
  cases a <;> simp [Access.elapse]

/-- The full gap: in RUN, the line not driven, no carrier, idle for 12 bit-times, as much work as before. -/
theorem State.gapFull_spec {l : LineId} {s : State} (hr : s.running = true) (hd : (s.line l).driverEnable = false) :
    (s.gapFull l).running = true ∧ ((s.gapFull l).line l).driverEnable = false ∧ ((s.gapFull l).line l).carrier = false ∧
      12 * (s.gapFull l).bitTime ≤ ((s.gapFull l).line l).idleTime ∧ (s.gapFull l).hasWork l = s.hasWork l := by
  have hline := State.line_gapFull (l := l) hr
  refine ⟨?_, ?_, ?_, ?_, ?_⟩
  · simpa [State.gapFull, State.running] using hr
  · rw [← Bool.not_eq_true, Line.driverEnable_iff] at hd ⊢
    rw [hline]
    simpa [Access.elapse_sending] using hd
  · rw [hline, Line.idleFromNow_eq]
  · rw [hline]
    simp only [State.gapLeft, State.bitTime, State.gapFull, State.elapse_straps, State.setLine_straps]
    omega
  · have hq : (s.gapFull l).txQueue = s.txQueue := by simp [State.gapFull]
    unfold State.hasWork
    rw [hline, hq, Line.idleFromNow_eq]
    rfl

/-- A full gap stays as it is at another LINE_IDLE_GAP. -/
theorem State.gapFull_gapFull {l : LineId} {s : State} (hr : s.running = true) (hd : (s.line l).driverEnable = false) :
    (s.gapFull l).gapFull l = s.gapFull l := by
  obtain ⟨-, -, hc, hi, -⟩ := State.gapFull_spec hr hd
  have hline := State.line_gapFull (l := l) hr
  generalize s.gapFull l = t at *
  have hseen : (t.line l).idleFromNow = t.line l := by
    rw [hline, Line.idleFromNow_eq, Line.idleFromNow_eq]
    simp
  rw [State.gapFull, State.gapLeft, hseen, State.setLine_line, Nat.sub_eq_zero_of_le hi, State.elapse_zero]

/-- A LINE_IDLE_GAP on a line measured idle long enough finds the gap full. -/
theorem State.gapFull_of_idle {l : LineId} {s : State} (hc : (s.line l).carrier = false)
    (hi : 12 * s.bitTime ≤ (s.line l).idleTime) :
    s.gapFull l = s.setLine l { s.line l with rx := none, pastFrame := none } := by
  have hseen : (s.line l).idleFromNow = { s.line l with rx := none, pastFrame := none } := by simp [Line.idleFromNow, hc]
  rw [State.gapFull, State.gapLeft, hseen, Nat.sub_eq_zero_of_le hi, State.elapse_zero]

/-- R3, R4: what LINE_IDLE_GAP comes to, from the moment the gap is full. -/
theorem gapCourses_lineIdleGap {l : LineId} {draw : Nat} {s : State} (hr : s.running = true)
    (hd : (s.line l).driverEnable = false) : GapCourses l draw (s.gapFull l) (exec (.lineIdleGap l draw) s) := by
  obtain ⟨hr', hd', hc', -, -⟩ := State.gapFull_spec hr hd
  rw [exec_lineIdleGap hr hd]
  exact gapCourses_afterGap hr' hd' hc'

/-- On a line measured idle for 12 bit-times. -/
theorem idleGapStartsOrResumesTheCount : Claims.IdleGapStartsOrResumesTheCount := by
  intro l draw s
  dsimp only
  intro hr hd hc hi
  have g := gapCourses_lineIdleGap (draw := draw) hr hd
  have hwork := (State.gapFull_spec hr hd).2.2.2.2
  rw [State.gapFull_of_idle hc hi] at g hwork
  obtain ⟨hno, hdraws, hres, hgo, hsends⟩ := g
  simp only [hwork, State.line_setLine, State.setLine_setLine] at hno hdraws hres hgo hsends
  exact ⟨hno, hdraws, hres, hgo, hsends⟩

/-- On a line that has not been measured idle so long. -/
theorem idleGapMeasuresIdleFromTheFallOfCarrier : Claims.IdleGapMeasuresIdleFromTheFallOfCarrier := by
  intro l draw s x seen left t hr hd
  have hseen : seen = (s.line l).idleFromNow := (Line.idleFromNow_eq _).symm
  have hleft : left = s.gapLeft l := congrArg (fun y : Line => 12 * s.bitTime - y.idleTime) hseen
  have ht : t = s.gapFull l := congrArg₂ (fun y n => (s.setLine l y).elapse n) hseen hleft
  clear_value t left seen
  subst ht hleft hseen
  have hline := State.line_gapFull (l := l) hr
  obtain ⟨hr', hd', -, hi', hwork⟩ := State.gapFull_spec hr hd
  obtain ⟨hno, hdraws, hres, hgo, hsends⟩ := gapCourses_lineIdleGap (draw := draw) hr hd
  rw [hwork] at hno hdraws hres hgo hsends
  have haccess : ((s.gapFull l).line l).access = (s.line l).access.elapse (s.gapLeft l) := by rw [hline]
  have hwindow : ((s.gapFull l).line l).window = (s.line l).window := by rw [hline, Line.idleFromNow_eq]
  refine ⟨?_, ⟨hi', hr', hwork, ?_⟩, hno, fun hw => ⟨fun ha hdraw => ?_, fun k ha hk => ?_, fun k e ha => ?_, fun ha => ?_⟩⟩
  · rw [exec_lineIdleGap hr hd, exec_lineIdleGap hr' hd', State.gapFull_gapFull hr hd]
  · rw [hline]
    cases ha : (s.line l).access with
    | sending bytes e =>
      have hd : (s.line l).driverEnable = false := hd
      simp [Line.driverEnable, ha] at hd
    | rest | counting _ _ | suspended _ => rfl
  · rw [← hwindow] at hdraw ⊢
    exact hdraws hw (by rw [haccess, ha]; rfl) hdraw
  · exact hres k hw (by rw [haccess, ha]; rfl) hk
  · exact hgo k _ hw (by rw [haccess, ha]; rfl)
  · refine hsends hw ?_
    rw [hwindow, haccess]
    rcases ha with ⟨ha, hdraw⟩ | ha <;> rw [ha]
    exacts [.inl ⟨rfl, hdraw⟩, .inr rfl]

/-! ## LINE_BUSY -/

/-- R4: a line that the station does not drive goes busy. -/
theorem exec_lineBusy {l : LineId} {s : State} (hr : s.running = true) (hd : (s.line l).driverEnable = false) :
    exec (.lineBusy l) s = .next (s.goBusy l) := congrArg _ (if_pos (by simp [hr, hd]))

theorem State.slotTime_pos (s : State) : 0 < s.slotTime := by
  unfold State.slotTime State.bitTime
  split <;> decide

/-- R4, R13. -/
theorem busyLineSuspendsTheCount : Claims.BusyLineSuspendsTheCount := by
  intro l s hr
  dsimp only
  have busy (hd : (s.line l).driverEnable = false) := exec_lineBusy hr hd
  refine ⟨fun k e ha hlt => ?_, fun k e ha hle hw => ?_, fun ha => ?_⟩
  · rw [busy (by simp [Line.driverEnable, ha]), State.goBusy]
    simp only [ha]
    rw [if_neg (by simp; omega)]
    rfl
  · have hd : (s.line l).driverEnable = false := by simp [Line.driverEnable, ha]
    have he : k * s.slotTime ≤ e := (Nat.le_div_iff_mul_le s.slotTime_pos).1 hle
    rw [exec_lineBusy hr hd, exec_backoffExpiry (k := k) (e := e) (by simpa using hr) (by simpa using ha) (by simpa using he),
      State.countDone_busy ((State.hasWork_setLine (by rfl) (by rfl) (by rfl)).trans hw) (by simp), State.goBusy]
    simp only [ha]
    rw [if_pos (by simp [hw, Nat.sub_eq_zero_of_le hle])]
    simp only [Access.suspend, Nat.sub_eq_zero_of_le hle, State.line_setLine, State.setLine_setLine]
    rfl
  · have hd : (s.line l).driverEnable = false := by rcases ha with ha | ⟨k, ha⟩ <;> simp [Line.driverEnable, ha]
    rw [exec_lineBusy hr hd, State.goBusy]
    rcases ha with ha | ⟨k, ha⟩ <;> simp only [ha, Access.suspend] <;> rw [← ha] <;> rfl

/-- Settles O11. -/
theorem backoffIsCountedAndSuspended : Obligations.BackoffIsCountedAndSuspended :=
  ⟨idleGapStartsOrResumesTheCount, idleGapMeasuresIdleFromTheFallOfCarrier, busyLineSuspendsTheCount⟩

end Sys2Proof.Machine
end

section
/-! PROOFS. Frames and bodies are read back from the bytes they are sent as (O21). -/

namespace Sys2Proof.Machine

/-! ## Numbers -/

@[simp] theorem byte_toNat (n : Nat) : (byte n).toNat = n % 256 := BitVec.toNat_ofNat n 8

/-- A number of two bytes is read back. -/
theorem val16_be16 {n : Nat} (h : n < 65536) : val16 (byte (n / 256)) (byte n) = n := by
  simp only [val16, byte_toNat]
  omega

/-- A number of four bytes is read back. -/
theorem val32_be32 {n : Nat} (h : n < 4294967296) :
    val32 (byte (n / 16777216)) (byte (n / 65536)) (byte (n / 256)) (byte n) = n := by
  simp only [val32, byte_toNat]
  omega

/-! ## Frames -/

/-- A frame's bytes, header, body and CRC apart. -/
theorem frameBytes_append (kind : Nat) (flags : Byte) (source seq : Nat) (body extra : List Byte) :
    frameBytes kind flags source seq body ++ extra =
      byte kind :: flags :: byte (source / 256) :: byte source :: byte seq :: byte body.length ::
        (body ++ (be16 (crc16 (frameHead kind flags source seq body)).toNat ++ extra)) := by
  simp [frameBytes, frameHead, be16]

/-- R1, R22, R23, R182: the header gives the body's length, and the CRC over header and body matches. -/
theorem frameSentIsReadBack : Claims.FrameSentIsReadBack := by
  intro kind flags source seq body extra hkind hsource hseq hbody
  have hlen : (byte body.length).toNat = body.length := by rw [byte_toNat]; omega
  have hk : (byte kind).toNat = kind := by rw [byte_toNat]; omega
  have hq : (byte seq).toNat = seq := by rw [byte_toNat]; omega
  rw [frameBytes_append, parseFrame, hlen, if_neg (by omega), if_neg (by simp [be16]), List.take_left, List.drop_left]
  have hcrc : (be16 (crc16 (frameHead kind flags source seq body)).toNat ++ extra).take 2 =
      be16 (crc16 (frameHead kind flags source seq body)).toNat := rfl
  rw [hcrc]
  refine (if_pos rfl).trans ?_
  rw [hk, hq, val16_be16 hsource]

/-! ## Bodies -/

/-- R31: a BEACON body. -/
theorem parseBeacon_encodeBody {epoch day ms : Nat} (coasting : Bool) (he : epoch < 256) (hd : day < 256)
    (hm : ms ≤ 86399999) : parseBeacon (encodeBody (.beacon epoch day ms coasting)) = some (.beacon epoch day ms coasting) := by
  have hval := val32_be32 (n := ms) (by omega)
  have hepoch : (byte epoch).toNat = epoch := by rw [byte_toNat]; omega
  have hday : (byte day).toNat = day := by rw [byte_toNat]; omega
  cases coasting <;>
    simp only [encodeBody, be32, List.cons_append, List.nil_append, parseBeacon, hval, hepoch, hday] <;>
    rw [if_neg (by omega)] <;> rfl

/-- A zone vector's four bytes give it back. -/
theorem ofNat_val32_encodeVec (v : ZoneVec) :
    BitVec.ofNat 32 (val32 (byte (v.toNat / 16777216)) (byte (v.toNat / 65536)) (byte (v.toNat / 256)) (byte v.toNat)) = v := by
  rw [val32_be32 v.isLt, BitVec.ofNat_toNat, BitVec.setWidth_eq]

/-- R31: a CONDITION body. -/
theorem parseCondition_encodeBody (closed notice : ZoneVec) :
    parseCondition (encodeBody (.condition closed notice)) = some (.condition closed notice) := by
  simp only [encodeBody, encodeVec, be32, List.cons_append, List.nil_append, parseCondition, ofNat_val32_encodeVec]

/-- A cost that can stand in an ADVERT frame (R84). -/
def Cost.Sendable (c : Cost) : Prop := (∀ m h, c = .finite m h → m ≤ 32000 ∧ h ≤ 31) ∧ ∀ h, c = .closed h → h ≤ 31

/-- Its code fits two bytes and its hops one. -/
theorem Cost.Sendable.fields_lt {c : Cost} (h : c.Sendable) : c.code < 65536 ∧ c.hopsField < 256 := by
  cases c with
  | finite m k =>
    have := h.1 m k rfl
    simp only [Cost.code, Cost.hopsField]
    omega
  | closed k =>
    have := h.2 k rfl
    simp only [Cost.code, Cost.hopsField]
    omega
  | unreachable | unknown => simp [Cost.code, Cost.hopsField]

/-- R31, R84: a cost is read back from its code and its hops. -/
theorem costOfCode_code {c : Cost} (h : c.Sendable) :
    costOfCode (val16 (byte (c.code / 256)) (byte c.code)) (byte c.hopsField).toNat = c := by
  obtain ⟨hcode, hhops⟩ := h.fields_lt
  rw [val16_be16 hcode, byte_toNat, Nat.mod_eq_of_lt hhops]
  cases c with
  | finite m k => simp [costOfCode, Cost.code, Cost.hopsField, h.1 m k rfl]
  | closed k => simp [costOfCode, Cost.code, Cost.hopsField, h.2 k rfl]
  | unreachable | unknown => simp [costOfCode, Cost.code]

/-- R31: the first entry of an ADVERT body is read back. -/
theorem parseAdvert_encodeAdvertEntry {e : AdvertEntry} (bs : List Byte) (hr : 1 ≤ e.room ∧ e.room ≤ 1023)
    (ha : e.any.cost.Sendable) (hav : e.any.via < 65536) (hl : e.level.cost.Sendable) (hlv : e.level.via < 65536) :
    parseAdvert (encodeAdvertEntry e ++ bs) = (parseAdvert bs).map (e :: ·) := by
  have hroom : roomOk e.room = true := by simp [roomOk, hr]
  simp only [encodeAdvertEntry, encodeValue, encodeCost, be16, List.cons_append, List.nil_append, parseAdvert,
    val16_be16 (show e.room < 65536 by omega), val16_be16 hav, val16_be16 hlv, costOfCode_code ha, costOfCode_code hl, hroom,
    if_true]

/-- R31, R182: the bodies of BEACON, CONDITION and ADVERT frames. -/
theorem otherBodiesAreReadBack : Claims.OtherBodiesAreReadBack := by
  refine ⟨fun epoch day ms coasting => parseBeacon_encodeBody coasting, parseCondition_encodeBody, fun es h => ?_⟩
  induction es with
  | nil => rfl
  | cons e es ih =>
    obtain ⟨⟨h1, h2, hv⟩, hes⟩ := List.forall_mem_cons.1 h
    obtain ⟨hav, ha⟩ := hv e.any (by simp)
    obtain ⟨hlv, hl⟩ := hv e.level (by simp)
    have hrest : parseAdvert (es.flatMap encodeAdvertEntry) = some es := ih hes
    show parseAdvert ((e :: es).flatMap encodeAdvertEntry) = _
    rw [List.flatMap_cons, parseAdvert_encodeAdvertEntry _ ⟨h1, h2⟩ ha hav hl hlv, hrest]
    rfl

/-- Settles O21. -/
theorem framesSentAreReadBack : Obligations.FramesSentAreReadBack :=
  ⟨frameSentIsReadBack, otherBodiesAreReadBack⟩

end Sys2Proof.Machine
end

section
/-! PROOFS. The beacon timer, minute events, and the housekeeping pass they start (O27). -/

namespace Sys2Proof.Machine

/-! ## BEACON_TIMER_EXPIRY -/

theorem exec_beaconTimerExpiry {s : State} {r : Nat} (h : s.time.beaconTimer = some r) (hr : 2000000 ≤ r) :
    exec .beaconTimerExpiry s = .next { s with time := { s.time with beaconTimer := some 0 } }.beaconIndication := by
  have hw : timerWait beaconLimit s.time.beaconTimer = some 0 := by
    simp [timerWait, h, beaconLimit, Nat.sub_eq_zero_of_le hr]
  show Host.Outcome.next (s.after (timerWait beaconLimit s.time.beaconTimer) _) = _
  rw [hw, State.after_due]

/-- R2: a line in UP or CHECK takes the indication where its beacon is not current. -/
theorem Line.takesBeacon_iff (x : Line) :
    x.takesBeacon = true ↔ (x.st = .up ∨ x.st = .check) ∧ x.beaconCurrent = false := by
  simp [Line.takesBeacon, Line.monitored]

theorem Line.withBeacon_taken {x : Line} (h : x.takesBeacon = true) (seq : Nat) :
    x.withBeacon seq = { x with beaconDue := true, beaconSeq := seq } := if_pos h

theorem Line.withBeacon_not_taken {x : Line} (h : ¬x.takesBeacon = true) (seq : Nat) : x.withBeacon seq = x := if_neg h

/-- R2, R19: an indication that marks no line takes no number. -/
theorem State.beaconIndication_none {s : State} (h : s.straps.listenOnly = true ∨ s.mode ≠ .run ∨
    (¬s.lineA.takesBeacon = true ∧ ¬s.lineB.takesBeacon = true)) : s.beaconIndication = s := by
  unfold State.beaconIndication
  rcases h with h | h | ⟨ha, hb⟩
  · rw [if_pos (by simp [h])]
  · rw [if_pos (by simp [State.running, h])]
  · rw [if_neg (c := (s.lineA.takesBeacon || s.lineB.takesBeacon) = true) (by simp [ha, hb]), ite_self]

/-- R2: an indication marks with one new number each line that takes it. -/
theorem State.beaconIndication_some {s : State} (hl : s.straps.listenOnly = false) (hm : s.mode = .run)
    (h : s.lineA.takesBeacon = true ∨ s.lineB.takesBeacon = true) :
    s.beaconIndication = { s with
      lineA := s.lineA.withBeacon s.ownSeq, lineB := s.lineB.withBeacon s.ownSeq, ownSeq := (s.ownSeq + 1) % 256 } := by
  unfold State.beaconIndication
  rw [if_neg (by simp [hl, State.running, hm]), if_pos (by simpa using h)]
  rfl

/-- R2, R41. -/
theorem beaconTimerMarksTheLines : Claims.BeaconTimerMarksTheLines := by
  intro s r h hr
  rw [exec_beaconTimerExpiry h hr]
  dsimp only
  simp only [← Line.takesBeacon_iff]
  refine ⟨fun hnone => ?_, fun hl hm hsome => ⟨_, _, congrArg _ (State.beaconIndication_some hl hm hsome), ?_⟩⟩
  · exact congrArg _ (State.beaconIndication_none hnone)
  · exact ⟨fun ha => Line.withBeacon_taken ha _, fun ha => Line.withBeacon_not_taken ha _,
      fun hb => Line.withBeacon_taken hb _, fun hb => Line.withBeacon_not_taken hb _⟩

/-! ## MINUTE_EVENT -/

/-- R38: where the minute has changed already the event is given at once. -/
theorem exec_minuteEvent_crossed {s : State} (hs : s.time.sync ≠ .free) (h : s.time.minute ≠ s.time.minuteGiven) :
    exec .minuteEvent s = .next s.giveMinuteEvent := by
  have hw : s.time.minuteWait = some 0 := by simp [TimeUnit.minuteWait, TimeUnit.crossed, hs, h, onlyIf]
  show Host.Outcome.next (s.after s.time.minuteWait _) = _
  rw [hw, State.after_due]

/-- The units that the counter has still to gain to the next minute. -/
def TimeUnit.minuteUnits (t : TimeUnit) : Nat := (t.minute + 1) * 60000 * msUnits - (t.ms * msUnits + t.frac)

/-- How long that takes, in µs. -/
def TimeUnit.minuteTime (t : TimeUnit) : Nat := (t.minuteUnits + t.rate - 1) / t.rate

theorem exec_minuteEvent_runsOn {s : State} (hs : s.time.sync ≠ .free) (h : s.time.minute = s.time.minuteGiven) :
    exec .minuteEvent s = .next (s.elapse s.time.minuteTime).giveMinuteEvent := by
  have hw : s.time.minuteWait = some s.time.minuteTime := by
    simp [TimeUnit.minuteWait, TimeUnit.crossed, hs, h, onlyIf, TimeUnit.unitsWait, TimeUnit.minuteTime, TimeUnit.minuteUnits]
  show Host.Outcome.next (s.after s.time.minuteWait _) = _
  rw [hw]
  rfl

/-- A wait of whole µs for a gain reaches it, and by less than the gain of one µs too much. -/
theorem mul_ceilDiv {u r : Nat} (hr : 0 < r) : u ≤ (u + r - 1) / r * r ∧ (u + r - 1) / r * r < u + r := by
  have h := Nat.div_add_mod (u + r - 1) r
  have hlt := Nat.mod_lt (u + r - 1) hr
  rw [Nat.mul_comm] at h
  omega

/-- R37: with the trim in its range the counter gains less than 1 ms in 1 µs. -/
theorem TimeUnit.rate_range {t : TimeUnit} (h : ClockOk t) : 0 < t.rate ∧ t.rate < 1000000000 := by
  obtain ⟨h1, h2⟩ := h.trim
  unfold TimeUnit.rate
  omega

/-- The counter at a number of units that is a day, a ms of that day and a fraction of a ms. -/
theorem TimeUnit.setUnits_parts {day ms frac : Nat} (hm : ms < dayMs) (hf : frac < msUnits) (t : TimeUnit) :
    t.setUnits ((day * dayMs + ms) * msUnits + frac) = { t with day := day % 256, ms := ms, frac := frac } := by
  have hms : ((day * dayMs + ms) * msUnits + frac) / msUnits = day * dayMs + ms := by
    rw [Nat.mul_comm, Nat.mul_add_div (by decide), Nat.div_eq_of_lt hf, Nat.add_zero]
  have hday : (day * dayMs + ms) / dayMs = day := by
    rw [Nat.mul_comm, Nat.mul_add_div (by decide), Nat.div_eq_of_lt hm, Nat.add_zero]
  have hrem : (day * dayMs + ms) % dayMs = ms := by
    rw [Nat.mul_comm, Nat.mul_add_mod, Nat.mod_eq_of_lt hm]
  have hfrac : ((day * dayMs + ms) * msUnits + frac) % msUnits = frac := by
    rw [Nat.mul_comm, Nat.mul_add_mod, Nat.mod_eq_of_lt hf]
  unfold TimeUnit.setUnits
  rw [Nat.mul_comm dayMs, ← Nat.div_div_eq_div_mul, hms, hday, hrem, hfrac]

/-- The counter's units before the next minute: the minute's own, without what is left of it. -/
theorem TimeUnit.units_add_minuteUnits {t : TimeUnit} (h : ClockOk t) :
    0 < t.minuteUnits ∧ t.units + t.minuteUnits = (t.day * dayMs + (t.minute + 1) * 60000) * msUnits := by
  have hf := h.frac
  unfold TimeUnit.minuteUnits TimeUnit.units TimeUnit.minute dayMs msUnits
  omega

/-- R37, R38: run on to the next minute, the counter stands at it, and in the day it belongs to. -/
theorem TimeUnit.advance_minuteTime {t : TimeUnit} (hs : t.sync ≠ .free) (h : ClockOk t) :
    ∃ frac, t.advance t.minuteTime = { t with
      day := (if t.minute = 1439 then t.day + 1 else t.day) % 256, ms := (t.minute + 1) % 1440 * 60000, frac := frac } := by
  obtain ⟨hrate, hfast⟩ := TimeUnit.rate_range h
  obtain ⟨-, hunits⟩ := TimeUnit.units_add_minuteUnits h
  obtain ⟨hlow, hhigh⟩ := mul_ceilDiv (u := t.minuteUnits) hrate
  obtain ⟨f, hf⟩ := Nat.exists_eq_add_of_le hlow
  have hfrac : f < msUnits := by unfold msUnits; omega
  have htotal : t.units + t.minuteTime * t.rate = (t.day * dayMs + (t.minute + 1) * 60000) * msUnits + f := by
    rw [← hunits, TimeUnit.minuteTime, hf, Nat.add_assoc]
  refine ⟨f, ?_⟩
  rw [TimeUnit.advance, if_neg hs, htotal]
  have hms := h.ms
  by_cases hlast : t.minute = 1439
  · have hday : t.day * dayMs + (t.minute + 1) * 60000 = (t.day + 1) * dayMs + 0 := by
      rw [hlast, dayMs]
      omega
    rw [hday, TimeUnit.setUnits_parts (by decide) hfrac, if_pos hlast, hlast]
  · have hminute : t.minute + 1 < 1440 := by
      unfold TimeUnit.minute at hlast ⊢
      omega
    rw [TimeUnit.setUnits_parts (by unfold dayMs; omega) hfrac, if_neg hlast, Nat.mod_eq_of_lt hminute]

theorem State.elapse_time_pos {n : Nat} (h : n ≠ 0) (s : State) : (s.elapse n).time = s.time.elapse n := by
  rw [State.elapse, if_neg h]

/-- R38. -/
theorem minuteEventFollowsTheCounter : Claims.MinuteEventFollowsTheCounter := by
  intro s hs hok
  refine ⟨fun h => exec_minuteEvent_crossed hs h, fun h => ⟨_, exec_minuteEvent_runsOn hs h, ?_⟩⟩
  have hday := hok.day
  have hpos : s.time.minuteTime ≠ 0 := by
    intro h0
    have hlow := (mul_ceilDiv (u := s.time.minuteUnits) (TimeUnit.rate_range hok).1).1
    have hu := (TimeUnit.units_add_minuteUnits hok).1
    rw [TimeUnit.minuteTime] at h0
    rw [h0, Nat.zero_mul] at hlow
    omega
  obtain ⟨frac, hadv⟩ := TimeUnit.advance_minuteTime hs hok
  have htime : (s.elapse s.time.minuteTime).giveMinuteEvent.time = (s.time.elapse s.time.minuteTime).giveMinute := by
    rw [← State.elapse_time_pos hpos]
    rfl
  rw [htime, TimeUnit.elapse, hadv]
  refine ⟨Nat.mul_mod_left _ _, Nat.mul_div_cancel _ (by decide), rfl, ?_⟩
  show (if s.time.minute = 1439 then s.time.day + 1 else s.time.day) % 256 = if s.time.minute = 1439 then _ else _
  split
  · rfl
  · exact Nat.mod_eq_of_lt hday

/-! ## The housekeeping pass (R72, R73) -/

/-- The slot is lower. -/
def lowerSlot (x y : SessionEntry) : Bool := decide (x.slot < y.slot)

/-- R72: the entry lies where the pass has still to come and is removed by it. -/
def SessionTable.ahead (p : HousekeepingPass) (tb : SessionTable) (x : SessionEntry) : Bool :=
  decide (p.next ≤ x.slot) && x.removable p.day p.minute tb.clock

/-- Where a pass stands: nowhere with nothing ahead of it, else at the lowest slot ahead. -/
def SessionTable.StandsAt (p : HousekeepingPass) (q : Option HousekeepingPass) (tb : SessionTable) : Prop :=
  ((∀ x ∈ tb.entries, ¬tb.ahead p x = true) → q = none) ∧
  (∀ e ∈ tb.entries, tb.ahead p e = true → (∀ x ∈ tb.entries, tb.ahead p x = true → e.slot ≤ x.slot) →
    q = some { p with next := e.slot })

/-- R72: what a pass removes next is ahead of it, and of no higher slot than anything ahead. -/
theorem SessionTable.removal_spec {p : HousekeepingPass} {tb : SessionTable} {e : SessionEntry} (h : tb.removal p = some e) :
    e ∈ tb.entries ∧ tb.ahead p e = true ∧ ∀ x ∈ tb.entries, tb.ahead p x = true → e.slot ≤ x.slot := by
  obtain ⟨hmem, hahead⟩ := List.mem_filter.1 (pickBest_mem h)
  refine ⟨hmem, hahead, fun x hx hxa => ?_⟩
  have hbest := pickBest_best (better := lowerSlot) (by simp [lowerSlot]; omega) (by simp [lowerSlot]; omega) h x
    (List.mem_filter.2 ⟨hx, hxa⟩)
  simpa [lowerSlot] using hbest

theorem SessionTable.removal_eq_none {p : HousekeepingPass} {tb : SessionTable} :
    tb.removal p = none ↔ ∀ x ∈ tb.entries, ¬tb.ahead p x = true :=
  pickBest_eq_none.trans List.filter_eq_nil_iff

/-- R72: the pass moves on to where it stands. -/
theorem SessionTable.standsAt_passOn (p : HousekeepingPass) (tb : SessionTable) : tb.StandsAt p (tb.passOn p) := by
  unfold SessionTable.passOn
  refine ⟨fun h => by rw [SessionTable.removal_eq_none.2 h]; rfl, fun e he ha hlow => ?_⟩
  cases hr : tb.removal p with
  | none => exact absurd ha (SessionTable.removal_eq_none.1 hr e he)
  | some v =>
    obtain ⟨hv, hva, hvlow⟩ := SessionTable.removal_spec hr
    have hslot : v.slot = e.slot := Nat.le_antisymm (hvlow e he ha) (hlow v hv hva)
    rw [Option.map_some, hslot]

/-- R72: a pass with something ahead goes on. -/
theorem SessionTable.passOn_isSome {p : HousekeepingPass} {tb : SessionTable} {e : SessionEntry} (he : e ∈ tb.entries)
    (ha : tb.ahead p e = true) : ∃ q, tb.passOn p = some q := by
  unfold SessionTable.passOn
  cases hr : tb.removal p with
  | none => exact absurd ha (SessionTable.removal_eq_none.1 hr e he)
  | some v => exact ⟨_, rfl⟩

/-- R72: what a pass removes, as the rule says it. -/
theorem SessionTable.ahead_iff (p : HousekeepingPass) (tb : SessionTable) (x : SessionEntry) :
    tb.ahead p x = true ↔ p.next ≤ x.slot ∧
      if x.record.status = .withdrawn then ∃ t, x.expiry = some t ∧ t ≤ tb.clock
      else (1 ≤ (p.day + 256 - x.record.day % 256) % 256 ∧ (p.day + 256 - x.record.day % 256) % 256 ≤ 127) ∨
        (x.record.day = p.day ∧ x.record.endMin + 30 ≤ p.minute) := by
  unfold SessionTable.ahead SessionEntry.removable SessionEntry.isTombstone SessionEntry.expired
  by_cases hw : x.record.status = .withdrawn
  · cases hx : x.expiry <;> simp [hw]
  · simp only [hw, if_false, Bool.and_eq_true, Bool.or_eq_true, decide_eq_true_eq, decide_false, Bool.false_eq_true]
    rfl

/-- R73: a waiting pass starts. -/
theorem SessionTable.startWaiting_some {tb : SessionTable} {d m : Nat} (h : tb.waiting = some (d, m)) :
    tb.startWaiting = { tb with running := tb.passOn { day := d, minute := m, next := 0 }, waiting := none } := by
  rw [SessionTable.startWaiting, h]

theorem SessionTable.startWaiting_none {tb : SessionTable} (h : tb.waiting = none) :
    tb.startWaiting = { tb with running := none } := by
  rw [SessionTable.startWaiting, h]

/-- R72: a running pass with something ahead goes on. -/
theorem SessionTable.settle_goesOn {tb : SessionTable} {p q : HousekeepingPass} (h : tb.running = some p)
    (hq : tb.passOn p = some q) : tb.settle = { tb with running := some q } := by
  simp only [SessionTable.settle, h, hq]

/-- R73: a running pass with nothing ahead ends, and a waiting one starts. -/
theorem SessionTable.settle_ends {tb : SessionTable} {p : HousekeepingPass} (h : tb.running = some p)
    (hq : tb.passOn p = none) : tb.settle = tb.startWaiting := by
  simp only [SessionTable.settle, h, hq]

/-- R72, R73. -/
theorem minuteEventStartsAPass : Claims.MinuteEventStartsAPass := by
  intro tb d m past stands new
  have hpast : ∀ p x, past p x ↔ tb.ahead p x = true := fun p x => (SessionTable.ahead_iff p tb x).symm
  have hstands : ∀ p q, stands p q ↔ tb.StandsAt p q := fun p q => by simp only [stands, SessionTable.StandsAt, hpast]
  clear_value past stands
  simp only [hpast, hstands]
  refine ⟨rfl, fun p hp => ?_, fun hp => ?_, fun p hp => ⟨fun e he ha => ?_, fun hnone => ⟨fun hw => ?_, fun hw => ?_⟩⟩⟩
  · simp [SessionTable.minuteEvent, hp]
  · refine ⟨_, ?_, tb.standsAt_passOn { day := d, minute := m, next := 0 }⟩
    rw [SessionTable.minuteEvent, if_neg (by decide), if_neg (by simp [hp]), SessionTable.settle, hp]
    rfl
  · obtain ⟨q, hq⟩ := SessionTable.passOn_isSome he ha
    exact ⟨q, hq ▸ tb.standsAt_passOn p, SessionTable.settle_goesOn hp hq⟩
  · rw [SessionTable.settle_ends hp ((tb.standsAt_passOn p).1 hnone), SessionTable.startWaiting_none hw]
  · refine ⟨_, ?_, tb.standsAt_passOn { day := d, minute := m, next := 0 }⟩
    rw [SessionTable.settle_ends hp ((tb.standsAt_passOn p).1 hnone)]
    exact SessionTable.startWaiting_some hw

/-- Settles O27. -/
theorem beaconTimerAndMinuteEvents : Obligations.BeaconTimerAndMinuteEvents :=
  ⟨beaconTimerMarksTheLines, minuteEventFollowsTheCounter, minuteEventStartsAPass⟩

end Sys2Proof.Machine
end

section
/-! PROOFS. FRAME_END: the stages that a received frame passes, from the frame check to the offer (O18, O19). -/

namespace Sys2Proof.Machine

/-! ## The duplicate list -/

/-- R26, R27: a pair counts as seen while it is in the list at an age below 2 s. -/
theorem dupHas_iff {source seq : Nat} {dups : List DupEntry} :
    dupHas source seq dups = true ↔ ∃ d ∈ dups, d.source = source ∧ d.seq = seq ∧ d.age < 2000000 := by
  simp only [dupHas, List.any_eq_true, Bool.and_eq_true, decide_eq_true_eq, DupEntry.young, and_assoc]
  rfl

theorem dupHas_eq_false {source seq : Nat} {dups : List DupEntry}
    (h : ∀ d ∈ dups, ¬(d.source = source ∧ d.seq = seq ∧ d.age < 2000000)) : dupHas source seq dups = false := by
  rw [← Bool.not_eq_true, dupHas_iff]
  rintro ⟨d, hd, hpair⟩
  exact h d hd hpair

/-- R26: of 64 entries the oldest by insertion leaves first. -/
theorem dupInsert_eq (source seq : Nat) (dups : List DupEntry) :
    dupInsert source seq dups = dups.drop (if 64 ≤ dups.length then 1 else 0) ++ [DupEntry.mk source seq 0] := by
  unfold dupInsert
  split <;> rfl

/-! ## The end of a frame -/

/-- FRAME_END of a frame that fails the frame check (R23): it leaves the receiver. -/
theorem exec_frameEnd_bad {l : LineId} {bytes : List Byte} {s : State} {arrival : Stamp} (hrx : (s.line l).rx = some arrival)
    (h : parseFrame bytes = none) :
    exec (.frameEnd l bytes) s = .next (s.setLine l ((s.line l).endReception bytes)) := by
  show execFrameEnd l bytes s = _
  simp only [execFrameEnd, hrx, h]

/-- FRAME_END of a frame that passes it: the later stages follow. -/
theorem exec_frameEnd_good {l : LineId} {bytes : List Byte} {s : State} {arrival : Stamp} {f : RawFrame}
    (hrx : (s.line l).rx = some arrival) (h : parseFrame bytes = some f) :
    exec (.frameEnd l bytes) s = .next ((s.setLine l ((s.line l).endReception bytes)).sortFrame f arrival) := by
  show execFrameEnd l bytes s = _
  simp only [execFrameEnd, hrx, h]

/-- R24: a frame of another kind. -/
theorem State.sortFrame_unknownKind {f : RawFrame} {s : State} (h : f.kind = 0 ∨ 4 < f.kind) (arrival : Stamp) :
    s.sortFrame f arrival = s :=
  if_pos (by simpa using h)

/-- R25: a frame that bears the own id. -/
theorem State.sortFrame_ownId {f : RawFrame} {s : State} (hk : 1 ≤ f.kind ∧ f.kind ≤ 4) (h : f.source = s.settings.stationId)
    (arrival : Stamp) : s.sortFrame f arrival = s.raise .idClash := by
  unfold State.sortFrame
  rw [if_neg (by simp; omega), if_pos h]
  rfl

/-- R26: a duplicate. -/
theorem State.sortFrame_duplicate {f : RawFrame} {s : State} (hk : 1 ≤ f.kind ∧ f.kind ≤ 4)
    (hid : f.source ≠ s.settings.stationId) (h : dupHas f.source f.seq s.dups = true) (arrival : Stamp) :
    s.sortFrame f arrival = s := by
  unfold State.sortFrame
  rw [if_neg (by simp; omega), if_neg hid, if_pos h]

/-- R26, R28 to R31: a new frame is remembered, and goes on to acceptance and the body check. -/
theorem State.sortFrame_new {f : RawFrame} {s : State} (hk : 1 ≤ f.kind ∧ f.kind ≤ 4)
    (hid : f.source ≠ s.settings.stationId) (h : dupHas f.source f.seq s.dups = false) (arrival : Stamp) :
    (sortBody s.settings f = none → s.sortFrame f arrival = { s with dups := dupInsert f.source f.seq s.dups }) ∧
    (∀ b, sortBody s.settings f = some b → s.sortFrame f arrival =
      { s with dups := dupInsert f.source f.seq s.dups }.inboundOffer (queuedFrame f b arrival)) := by
  have hnew : ¬dupHas f.source f.seq s.dups = true := by simp [h]
  unfold State.sortFrame
  rw [if_neg (by simp; omega), if_neg hid, if_neg hnew]
  constructor
  · intro hb
    simp only [hb]
  · intro b hb
    simp only [hb]

/-- R23 to R30. -/
theorem frameEndDiscardsInOrder : Claims.FrameEndDiscardsInOrder := by
  intro l bytes s arrival hrx t
  have ht : s.setLine l ((s.line l).endReception bytes) = t := by
    rw [Line.endReception_eq]
    simp [t, frameWhole]
  have hset : t.settings = s.settings := State.setLine_settings ..
  have hdups : t.dups = s.dups := State.setLine_dups ..
  refine ⟨fun h => ?_, fun f h hk => ?_, fun f h h1 h4 hid => ?_, fun f d h h1 h4 hid hd hsource hseq hage => ?_,
    fun f h h1 h4 hid hnew hb => ?_⟩
  · rw [exec_frameEnd_bad hrx h, ht]
  · rw [exec_frameEnd_good hrx h, ht, State.sortFrame_unknownKind hk]
  · rw [exec_frameEnd_good hrx h, ht, State.sortFrame_ownId ⟨h1, h4⟩ (by rwa [hset])]
  · rw [exec_frameEnd_good hrx h, ht, State.sortFrame_duplicate ⟨h1, h4⟩ (by rwa [hset])
      (by rw [hdups]; exact dupHas_iff.2 ⟨d, hd, hsource, hseq, hage⟩)]
  · rw [exec_frameEnd_good hrx h, ht, (State.sortFrame_new ⟨h1, h4⟩ (by rwa [hset]) (by rw [hdups]; exact dupHas_eq_false hnew)
      arrival).1 (by rwa [hset]), hdups, dupInsert_eq]

/-! ## The offer to the Inbound Queue -/

/-- R24, R32: the queued form of a frame. -/
theorem queuedFrame_eq (f : RawFrame) (b : Body) (arrival : Stamp) : queuedFrame f b arrival =
    { source := f.source, seq := f.seq
      refresh := (match b with | .session _ => f.flags.getLsbD 0 | _ => false)
      prompt := (match b with | .advert _ => f.flags.getLsbD 1 | _ => false)
      body := b, arrival := (match b with | .beacon _ _ _ _ => some arrival | _ => none) } := by
  cases b <;> rfl

/-- R33: the frames that give way at the critical level. -/
theorem InFrame.sheddable_eq (q : InFrame) : q.sheddable =
    (match q.body with | .session _ => q.refresh | .advert _ => !q.prompt | _ => false) := by
  unfold InFrame.sheddable
  cases q.body <;> simp [Body.isSession, Body.isAdvert]

/-- R33: the offer by the fill of the queue. -/
theorem State.inboundOffer_eq (q : InFrame) (s : State) : s.inboundOffer q =
    if 24 ≤ s.inbound.length then s.raise .inboundOverrun
    else if 18 ≤ s.inbound.length ∧ q.sheddable = true then s.raise .inboundPressure
    else { s with inbound := s.inbound ++ [q] } := by
  simp only [State.inboundOffer, Bool.and_eq_true, decide_eq_true_eq, State.raise]

/-- Settles O18. -/
theorem frameEndOffersToTheInboundQueue : Obligations.FrameEndOffersToTheInboundQueue := by
  intro l bytes s arrival f b hrx hparse h1 h4 hid hnew hb t q gives
  have hend : { s.setLine l ((s.line l).endReception bytes) with dups := dupInsert f.source f.seq s.dups } = t := by
    rw [Line.endReception_eq, frameWhole_of_parseFrame hparse, Bool.true_and, dupInsert_eq]
  have hq : queuedFrame f b arrival = q := queuedFrame_eq f b arrival
  have hgives : q.sheddable = gives := InFrame.sheddable_eq q
  have hinbound : t.inbound = s.inbound := State.setLine_inbound ..
  rw [exec_frameEnd_good hrx hparse, (State.sortFrame_new ⟨h1, h4⟩ (by rwa [State.setLine_settings])
    (by rw [State.setLine_dups]; exact dupHas_eq_false hnew) arrival).2 b (by rwa [State.setLine_settings]),
    State.setLine_dups, hend, hq, State.inboundOffer_eq, hgives, hinbound]

end Sys2Proof.Machine
end

section
/-! PROOFS. Acceptance and the body checks (O19). -/

namespace Sys2Proof.Machine

/-! ## Acceptance (R28, R29) -/

/-- R29: a filter compares the bits of its mask. -/
theorem RoomFilter.admits_iff {g : RoomFilter} (hm : g.mask < 1024) (room : Nat) :
    g.admits room = true ↔ ∀ i, i < 10 → g.mask.testBit i = true → room.testBit i = g.value.testBit i := by
  have hmod : ∀ i, (room % 1024).testBit i = (decide (i < 10) && room.testBit i) := Nat.testBit_mod_two_pow room 10
  unfold RoomFilter.admits
  rw [decide_eq_true_iff]
  constructor
  · intro h i hi hmask
    have hbit := congrArg (Nat.testBit · i) h
    simpa [Nat.testBit_and, hmod, hi, hmask] using hbit
  · intro h
    refine Nat.eq_of_testBit_eq fun i => ?_
    rw [Nat.testBit_and, Nat.testBit_and, hmod]
    cases hmask : g.mask.testBit i with
    | false => simp
    | true =>
      have hi : i < 10 := by
        by_contra hi
        have hlow : g.mask < 2 ^ i := hm.trans_le (Nat.pow_le_pow_right (by decide) (Nat.le_of_not_lt hi) : 2 ^ 10 ≤ 2 ^ i)
        simp [Nat.testBit_lt_two_pow hlow] at hmask
      simp [hi, h i hi hmask]

/-- R29: the three tests of a room. -/
theorem Settings.wantsRoom_iff {st : Settings} (hf : ∀ g ∈ st.filters, g.value < 1024 ∧ g.mask < 1024) (room : Nat) :
    st.wantsRoom room = true ↔ (st.homeRoom ≠ 0 ∧ room = st.homeRoom) ∨ room ∈ st.directory ∨
      ∃ g ∈ st.filters, ∀ i, i < 10 → g.mask.testBit i = true → room.testBit i = g.value.testBit i := by
  have hfilters : st.filters.any (·.admits room) = true ↔
      ∃ g ∈ st.filters, ∀ i, i < 10 → g.mask.testBit i = true → room.testBit i = g.value.testBit i := by
    rw [List.any_eq_true]
    exact exists_congr fun g => and_congr_right fun hg => RoomFilter.admits_iff (hf g hg).2 room
  simp only [Settings.wantsRoom, Bool.or_eq_true, Bool.and_eq_true, decide_eq_true_eq, List.contains_iff_mem, hfilters, or_assoc]

theorem Settings.acceptsSession_iff (st : Settings) (plenary : Bool) (rooms : List Nat) :
    st.acceptsSession plenary rooms = true ↔ plenary = true ∨ ∃ m ∈ rooms, st.wantsRoom m = true := by
  rw [Settings.acceptsSession, Bool.or_eq_true, List.any_eq_true]

/-- R28: an ADVERT comes from the neighbour of an in-use link. -/
theorem Settings.isNeighbour_iff (st : Settings) (source : Nat) :
    st.isNeighbour source = true ↔ ∃ k ∈ st.links, k.neighbour = source := by
  simp [Settings.isNeighbour]

/-! ## BEACON and CONDITION bodies (R31) -/

theorem parseBeacon_of_length {bs : List Byte} (h : bs.length ≠ 7) : parseBeacon bs = none := by
  unfold parseBeacon
  split
  · exact absurd rfl h
  · rfl

theorem parseCondition_of_length {bs : List Byte} (h : bs.length ≠ 8) : parseCondition bs = none := by
  unfold parseCondition
  split
  · exact absurd rfl h
  · rfl

/-- A byte behind a word. -/
theorem toNat_append_byte {n : Nat} (x : BitVec n) (y : Byte) : (x ++ y).toNat = x.toNat * 256 + y.toNat := by
  rw [BitVec.toNat_append, ← Nat.shiftLeft_add_eq_or_of_lt y.isLt, Nat.shiftLeft_eq]

/-- Four bytes put together are the number they give. -/
theorem ofNat_val32 (a b c d : Byte) : BitVec.ofNat 32 (val32 a b c d) = a ++ b ++ c ++ d := by
  refine BitVec.eq_of_toNat_eq ?_
  have hlt := (a ++ b ++ c ++ d).isLt
  simp only [toNat_append_byte] at hlt ⊢
  exact Nat.mod_eq_of_lt hlt

/-! ## ADVERT bodies (R31) -/

/-- The byte at a place of a body, as a number. -/
def byteAt (bs : List Byte) (i : Nat) : Nat := (bs.getD i 0).toNat

/-- The cost that the three bytes from a place on give. -/
def costAt (bs : List Byte) (i : Nat) : Cost :=
  let code := byteAt bs i * 256 + byteAt bs (i + 1)
  if code ≤ 32000 ∧ byteAt bs (i + 2) ≤ 31 then .finite code (byteAt bs (i + 2))
  else if code = 65533 ∧ byteAt bs (i + 2) ≤ 31 then .closed (byteAt bs (i + 2))
  else if code = 65534 then .unreachable else .unknown

/-- The advert entry that the twelve bytes from a place on give. -/
def entryAt (bs : List Byte) (i : Nat) : AdvertEntry :=
  { room := byteAt bs i * 256 + byteAt bs (i + 1)
    any := { cost := costAt bs (i + 2), via := byteAt bs (i + 5) * 256 + byteAt bs (i + 6) }
    level := { cost := costAt bs (i + 7), via := byteAt bs (i + 10) * 256 + byteAt bs (i + 11) } }

/-- The entries of a body whose rooms can stand in an advert. -/
def entriesOf (bs : List Byte) : List AdvertEntry :=
  ((List.range (bs.length / 12)).map fun j => entryAt bs (12 * j)).filter fun e => roomOk e.room

/-- R31: a code with a hop count above 31 reads as UNKNOWN, as a code that names no cost does. -/
theorem costOfCode_eq (code hops : Nat) : costOfCode code hops =
    if code ≤ 32000 ∧ hops ≤ 31 then .finite code hops
    else if code = 65533 ∧ hops ≤ 31 then .closed hops
    else if code = 65534 then .unreachable else .unknown := by
  unfold costOfCode
  by_cases hh : hops ≤ 31
  · simp [hh]
  · by_cases hclosed : code = 65533
    · subst hclosed
      simp [hh]
    · by_cases hunreachable : code = 65534
      · subst hunreachable
        simp
      · simp [hh, hclosed, hunreachable]

/-- The entries of a body: the first, where its room can stand in an advert, and those of the bytes behind it. -/
theorem entriesOf_append {head bs : List Byte} (h : head.length = 12) : entriesOf (head ++ bs) =
    if roomOk (entryAt head 0).room then entryAt head 0 :: entriesOf bs else entriesOf bs := by
  have hhead : ∀ i, i < 12 → byteAt (head ++ bs) i = byteAt head i := fun i hi => by
    rw [byteAt, byteAt, List.getD_append _ _ _ _ (h ▸ hi)]
  have htail : ∀ i, byteAt (head ++ bs) (i + 12) = byteAt bs i := fun i => by
    rw [byteAt, byteAt, List.getD_append_right _ _ _ _ (by omega), h, Nat.add_sub_cancel]
  have hfirst : entryAt (head ++ bs) 0 = entryAt head 0 := by simp [entryAt, costAt, hhead]
  have hrest : ∀ j, entryAt (head ++ bs) (12 * (j + 1)) = entryAt bs (12 * j) := fun j => by
    have hplace : ∀ k, byteAt (head ++ bs) (12 * (j + 1) + k) = byteAt bs (12 * j + k) := fun k => by
      rw [← htail, Nat.mul_succ, Nat.add_right_comm]
    have hplace0 : byteAt (head ++ bs) (12 * (j + 1)) = byteAt bs (12 * j) := hplace 0
    simp [entryAt, costAt, Nat.add_assoc, hplace, hplace0]
  have hcount : (head ++ bs).length / 12 = bs.length / 12 + 1 := by
    rw [List.length_append, h]
    omega
  rw [entriesOf, hcount, List.range_succ_eq_map, List.map_cons, List.map_map, List.filter_cons, Nat.mul_zero, hfirst]
  have hothers : (fun j => entryAt (head ++ bs) (12 * j)) ∘ Nat.succ = fun j => entryAt bs (12 * j) := funext hrest
  rw [hothers]
  rfl

/-- R31: a body of whole entries gives those whose rooms can stand in an advert, and any other body is discarded. -/
theorem parseAdvert_eq : (bs : List Byte) → parseAdvert bs = if bs.length % 12 = 0 then some (entriesOf bs) else none
  | [] => rfl
  | [_] | [_, _] | [_, _, _] | [_, _, _, _] | [_, _, _, _, _] | [_, _, _, _, _, _] | [_, _, _, _, _, _, _]
  | [_, _, _, _, _, _, _, _] | [_, _, _, _, _, _, _, _, _] | [_, _, _, _, _, _, _, _, _, _]
  | [_, _, _, _, _, _, _, _, _, _, _] => rfl
  | r1 :: r0 :: a1 :: a0 :: ah :: av1 :: av0 :: l1 :: l0 :: lh :: lv1 :: lv0 :: bs => by
    have hentries := entriesOf_append (head := [r1, r0, a1, a0, ah, av1, av0, l1, l0, lh, lv1, lv0]) (bs := bs) rfl
    rw [parseAdvert, parseAdvert_eq bs]
    by_cases hlen : bs.length % 12 = 0
    · have hwhole : (bs.length + 12) % 12 = 0 := by omega
      rw [if_pos hlen, Option.map_some, costOfCode_eq, costOfCode_eq]
      exact (congrArg some hentries.symm).trans (if_pos hwhole).symm
    · have hnot : ¬(bs.length + 12) % 12 = 0 := by omega
      rw [if_neg hlen]
      exact (if_neg hnot).symm

/-! ## SESSION bodies (R30) -/

/-- R30: a room that repeats an earlier one is removed. -/
theorem keepFirst_eq (rooms : List Nat) : keepFirst rooms = rooms.eraseDups := by
  induction rooms using List.reverseRecOn with
  | nil => rfl
  | append_singleton rooms r ih =>
    have hsnoc : keepFirst (rooms ++ [r]) = if r ∈ keepFirst rooms then keepFirst rooms else keepFirst rooms ++ [r] := by
      rw [keepFirst, List.foldl_append]
      rfl
    rw [hsnoc, ih, List.eraseDups_append]
    by_cases hr : r ∈ rooms
    · simp [hr, List.removeAll]
    · simp [hr, List.removeAll, List.eraseDups_cons]

/-- The faults of a record that R30 lists. -/
def RawRecord.Faulty (r : RawRecord) : Prop :=
  r.publisher = 0 ∨ 4000 < r.publisher ∨ r.number = 0 ∨ r.version = 0 ∨ 4 < r.status ∨ r.rooms = [] ∨
    4 < r.rooms.length ∨ (∃ m ∈ r.rooms, m = 0 ∨ 1023 < m) ∨
    (r.status ≠ 4 ∧ (r.endMin ≤ r.startMin ∨ 1440 < r.endMin ∨ 48 < r.title.length ∨
      (∃ x, r.track = some x ∧ 16 < x.length) ∨ (∃ x, r.speaker = some x ∧ 32 < x.length) ∨
      ¬(r.status = 2 ↔ r.movedTo.isSome = true) ∨ ∃ m, r.movedTo = some m ∧ (m = 0 ∨ 1023 < m)))

theorem roomOk_eq_false_iff (room : Nat) : roomOk room = false ↔ room = 0 ∨ 1023 < room := by
  simp only [roomOk, Bool.and_eq_false_iff, decide_eq_false_iff_not]
  omega

/-- R30: the checks that a WITHDRAWN record does not take. -/
theorem RawRecord.detailsOk_eq_false_iff (r : RawRecord) : r.detailsOk = false ↔
    r.endMin ≤ r.startMin ∨ 1440 < r.endMin ∨ 48 < r.title.length ∨
      (∃ x, r.track = some x ∧ 16 < x.length) ∨ (∃ x, r.speaker = some x ∧ 32 < x.length) ∨
      ¬(r.status = 2 ↔ r.movedTo.isSome = true) ∨ ∃ m, r.movedTo = some m ∧ (m = 0 ∨ 1023 < m) := by
  have hmoved : (decide (r.status = Status.moved.code) == r.movedTo.isSome) = false ↔
      ¬(r.status = 2 ↔ r.movedTo.isSome = true) := by
    rw [beq_eq_false_iff_ne, Ne, Bool.eq_iff_iff, decide_eq_true_iff]
    rfl
  simp only [RawRecord.detailsOk, Bool.and_eq_false_iff, hmoved, or_assoc, decide_eq_false_iff_not, Nat.not_lt, Nat.not_le,
    Option.all_eq_false, roomOk_eq_false_iff]

/-- R30: a record passes the checks when it has none of the faults. -/
theorem RawRecord.ok_eq_false_iff (r : RawRecord) : r.ok = false ↔ r.Faulty := by
  simp only [RawRecord.ok, RawRecord.Faulty, Bool.and_eq_false_iff, Bool.or_eq_false_iff, RawRecord.detailsOk_eq_false_iff,
    decide_eq_false_iff_not, or_assoc, Nat.not_le, Nat.lt_one_iff, Ne, not_not, List.length_eq_zero_iff, List.all_eq_false,
    Bool.not_eq_true, roomOk_eq_false_iff]
  rfl

/-- The status that a code of R59 names. -/
theorem code_statusOfCode {k : Nat} (h : k ≤ 4) : ((statusOfCode k).getD .normal).code = k := by
  interval_cases k <;> rfl

/-- R59: of a WITHDRAWN record key, version, rooms and PLENARY flag alone are kept. -/
theorem RawRecord.normalise_withdrawn {r : RawRecord} (h : r.status = 4) : r.normalise =
    { publisher := r.publisher, number := r.number, version := r.version, status := .withdrawn, plenary := r.plenary
      rooms := r.rooms.eraseDups, day := 0, startMin := 0, endMin := 0, movedTo := none, title := [], track := none
      speaker := none } := by
  rw [RawRecord.normalise, h, keepFirst_eq]
  rfl

/-- R30: any other record keeps its fields, with control codes replaced. -/
theorem RawRecord.normalise_kept {r : RawRecord} (hs : r.status ≤ 4) (h : r.status ≠ 4) : r.normalise =
    { publisher := r.publisher, number := r.number, version := r.version, status := (statusOfCode r.status).getD .normal
      plenary := r.plenary, rooms := r.rooms.eraseDups, day := r.day, startMin := r.startMin, endMin := r.endMin
      movedTo := r.movedTo, title := r.title.map cleanChar, track := r.track.map (·.map cleanChar)
      speaker := r.speaker.map (·.map cleanChar) } := by
  have hkept : (statusOfCode r.status).getD .normal ≠ .withdrawn := fun hw => h (by rw [← code_statusOfCode hs, hw]; rfl)
  rw [RawRecord.normalise, keepFirst_eq]
  exact if_neg hkept

/-! ## The frames accepted, by kind -/

/-- R31: BEACON frames of every source. -/
theorem sortBody_beacon {st : Settings} {f : RawFrame} (hk : f.kind = 1) : sortBody st f = parseBeacon f.body := by
  simp only [sortBody, hk]

/-- R31: CONDITION frames of every source. -/
theorem sortBody_condition {st : Settings} {f : RawFrame} (hk : f.kind = 4) : sortBody st f = parseCondition f.body := by
  simp only [sortBody, hk]

/-- R28, R31: ADVERT frames of a neighbour. -/
theorem sortBody_advert {st : Settings} {f : RawFrame} (hk : f.kind = 3) : sortBody st f =
    if st.isNeighbour f.source = true ∧ f.body.length % 12 = 0 then some (.advert (entriesOf f.body)) else none := by
  simp only [sortBody, hk, parseAdvert_eq]
  by_cases hlink : st.isNeighbour f.source = true
  · by_cases hlen : f.body.length % 12 = 0 <;> simp [hlink, hlen]
  · simp [hlink]

/-- R29, R30: a SESSION frame whose record reads is accepted by its rooms and then checked. -/
theorem sortBody_session {st : Settings} {f : RawFrame} {r : RawRecord} (hk : f.kind = 2) (hr : parseRecord f.body = some r) :
    sortBody st f =
      if st.acceptsSession r.plenary r.rooms = true ∧ r.ok = true then some (.session r.normalise) else none := by
  simp only [sortBody, hk, hr, Bool.and_eq_true]

theorem sortBody_unreadSession {st : Settings} {f : RawFrame} (hk : f.kind = 2) (hr : parseRecord f.body = none) :
    sortBody st f = none := by
  simp only [sortBody, hk, hr]

/-- R30, R59: what a record without a fault becomes. -/
theorem RawRecord.normalise_spec {r : RawRecord} (hs : r.status ≤ 4) :
    let n := r.normalise
    n.publisher = r.publisher ∧ n.number = r.number ∧ n.version = r.version ∧ n.plenary = r.plenary ∧
      n.status.code = r.status ∧ n.rooms = r.rooms.eraseDups ∧
      (r.status = 4 → n.movedTo = none ∧ n.title = [] ∧ n.track = none ∧ n.speaker = none) ∧
      (r.status ≠ 4 → n.day = r.day ∧ n.startMin = r.startMin ∧ n.endMin = r.endMin ∧ n.movedTo = r.movedTo ∧
        n.title = r.title.map cleanChar ∧ n.track = r.track.map (·.map cleanChar) ∧
        n.speaker = r.speaker.map (·.map cleanChar)) := by
  intro n
  by_cases h : r.status = 4
  · have hn : n = _ := RawRecord.normalise_withdrawn h
    rw [hn]
    exact ⟨rfl, rfl, rfl, rfl, h.symm, rfl, fun _ => ⟨rfl, rfl, rfl, rfl⟩, fun hne => absurd h hne⟩
  · have hn : n = _ := RawRecord.normalise_kept hs h
    rw [hn]
    exact ⟨rfl, rfl, rfl, rfl, code_statusOfCode hs, rfl, fun he => absurd he h, fun _ => ⟨rfl, rfl, rfl, rfl, rfl, rfl, rfl⟩⟩

/-- R31: the bytes of a BEACON body. -/
theorem parseBeacon_bytes (e d m3 m2 m1 m0 x : Byte) :
    let ms := ((m3.toNat * 256 + m2.toNat) * 256 + m1.toNat) * 256 + m0.toNat
    (86399999 < ms ∨ (x ≠ 1#8 ∧ x ≠ 2#8) → parseBeacon [e, d, m3, m2, m1, m0, x] = none) ∧
    (ms ≤ 86399999 → x = 1#8 ∨ x = 2#8 →
      parseBeacon [e, d, m3, m2, m1, m0, x] = some (.beacon e.toNat d.toNat ms (decide (x = 2#8)))) := by
  intro ms
  have hval : val32 m3 m2 m1 m0 = ms := rfl
  clear_value ms
  simp only [parseBeacon, hval]
  constructor
  · rintro (hms | ⟨h1, h2⟩)
    · exact if_pos hms
    · rw [if_neg h1, if_neg h2, ite_self]
  · intro hms hx
    rw [if_neg (Nat.not_lt.2 hms)]
    rcases hx with rfl | rfl <;> rfl

/-- R28 to R31. -/
theorem framesAreAcceptedAndChecked : Claims.FramesAreAcceptedAndChecked := by
  intro st f hf wanted
  have hwanted : ∀ m, st.wantsRoom m = true ↔ wanted m := Settings.wantsRoom_iff hf
  clear_value wanted
  refine ⟨fun hk => ⟨sortBody_beacon hk, fun hlen => ?_, fun e d m3 m2 m1 m0 x hbody => ?_⟩,
    fun hk => ⟨fun hlen => ?_, fun c3 c2 c1 c0 n3 n2 n1 n0 hbody => ?_⟩, fun hk => ⟨fun hdiscard => ?_, fun hlink hlen => ?_⟩,
    fun hk => ⟨sortBody_unreadSession hk, fun r hr => ?_⟩⟩
  · rw [sortBody_beacon hk, parseBeacon_of_length hlen]
  · rw [sortBody_beacon hk, hbody]
    exact parseBeacon_bytes e d m3 m2 m1 m0 x
  · rw [sortBody_condition hk, parseCondition_of_length hlen]
  · rw [sortBody_condition hk, hbody, parseCondition, ofNat_val32, ofNat_val32]
  · refine (sortBody_advert hk).trans (if_neg fun ⟨hlink, hlen⟩ => ?_)
    obtain ⟨k, hmem, hsource⟩ := (Settings.isNeighbour_iff st _).1 hlink
    exact hdiscard.elim (fun hnone => hnone k hmem hsource) (fun hne => hne hlen)
  · rw [sortBody_advert hk, if_pos ⟨(Settings.isNeighbour_iff st _).2 hlink, hlen⟩]
    simp only [entriesOf, roomOk, ← Bool.decide_and]
    rfl
  · have haccepts : st.acceptsSession r.plenary r.rooms = true ↔ r.plenary = true ∨ ∃ m ∈ r.rooms, wanted m := by
      simp only [Settings.acceptsSession_iff, hwanted]
    have hfaulty := r.ok_eq_false_iff
    rw [sortBody_session hk hr]
    refine ⟨fun hplenary hrooms => if_neg ?_, fun hfault => if_neg ?_, fun hacc hgood => ?_⟩
    · rintro ⟨hacc, -⟩
      rcases haccepts.1 hacc with hp | ⟨m, hm, hw⟩
      · rw [hplenary] at hp
        cases hp
      · exact hrooms m hm hw
    · rintro ⟨-, hok⟩
      rw [hfaulty.2 hfault] at hok
      cases hok
    · have hok : r.ok = true := by
        rw [← Bool.not_eq_false, hfaulty]
        exact hgood
      have hstatus : r.status ≤ 4 := by
        by_contra h
        exact hgood (.inr (.inr (.inr (.inr (.inl (Nat.lt_of_not_le h))))))
      exact ⟨r.normalise, if_pos ⟨haccepts.2 hacc, hok⟩, RawRecord.normalise_spec hstatus⟩

/-! ## START_DELIMITER and DUPLICATE_ENTRY_EXPIRY -/

/-- R22, R32: START_DELIMITER on a line that the station does not drive. -/
theorem exec_startDelimiter {l : LineId} {s : State} (hr : s.running = true) (hd : (s.line l).driverEnable = false) :
    exec (.startDelimiter l) s =
      let t := if (s.line l).carrier then s else s.goBusy l
      .next (t.setLine l { t.line l with rx := some s.time.stamp }) := congrArg _ (if_pos (by simp [hr, hd]))

/-- R27: DUPLICATE_ENTRY_EXPIRY lets the oldest pair reach 2 s. -/
theorem exec_duplicateEntryExpiry {s : State} {d : DupEntry} {rest : List DupEntry} (h : s.dups = d :: rest) :
    exec .duplicateEntryExpiry s =
      let t := s.elapse (2000000 - d.age)
      .next { t with dups := t.dups.filter DupEntry.young } := by
  show execDuplicateEntryExpiry s = _
  rw [execDuplicateEntryExpiry, h]
  rfl

/-- R27: after some time the young pairs are those that were young enough before. -/
theorem State.young_elapse (n : Nat) (s : State) : (s.elapse n).dups.filter DupEntry.young =
    (s.dups.map fun c => { c with age := c.age + n }).filter fun c => decide (c.age < 2000000) := by
  rw [State.elapse_dups]
  split
  · next h =>
    subst h
    exact congrArg _ (List.map_id s.dups).symm
  · rw [dupsElapse, List.filter_filter]
    simp only [Bool.and_self]
    rfl

/-- R22, R27, R32. -/
theorem delimiterStampsAndDuplicatesExpire : Claims.DelimiterStampsAndDuplicatesExpire := by
  refine ⟨fun l s hr hd hc => ?_, fun l s hr hd hc => ⟨s.goBusy l, exec_lineBusy hr hd, ?_⟩,
    fun s d rest h => ⟨fun hage => ?_, ⟨_, exec_duplicateEntryExpiry h, State.young_elapse _ s⟩⟩⟩
  · rw [exec_startDelimiter hr hd, hc]
    rfl
  · rw [exec_startDelimiter hr hd, hc]
    rfl
  · rw [exec_duplicateEntryExpiry h, Nat.sub_eq_zero_of_le hage]
    rfl

/-- Settles O19. -/
theorem receiverFramesAndDiscards : Obligations.ReceiverFramesAndDiscards :=
  ⟨frameEndDiscardsInOrder, framesAreAcceptedAndChecked, delimiterStampsAndDuplicatesExpire⟩

end Sys2Proof.Machine
end

section
/-! PROOFS. A normalised session record is read back from the bytes it is sent as (O20). -/

namespace Sys2Proof.Machine

/-! ## The fields of a record -/

/-- Two-byte numbers one after the other are read back. -/
theorem getWords_flatMap_be16 {words : List Nat} (h : ∀ w ∈ words, w < 65536) (bs : List Byte) :
    getWords words.length (words.flatMap be16 ++ bs) = some (words, bs) := by
  induction words with
  | nil => rfl
  | cons w words ih =>
    obtain ⟨hw, hrest⟩ := List.forall_mem_cons.1 h
    have hsplit : (w :: words).flatMap be16 ++ bs = byte (w / 256) :: byte w :: (words.flatMap be16 ++ bs) := rfl
    rw [hsplit, List.length_cons, getWords, ih hrest, val16_be16 hw]
    rfl

theorem getWord_be16 {w : Nat} (h : w < 65536) (bs : List Byte) : getWord (be16 w ++ bs) = some (w, bs) := by
  have hread : getWord (be16 w ++ bs) = some (val16 (byte (w / 256)) (byte w), bs) := rfl
  rw [hread, val16_be16 h]

/-- A text is read back from its length byte and its characters. -/
theorem getText_text {t : List Byte} (h : t.length < 256) (bs : List Byte) : getText (text t ++ bs) = some (t, bs) := by
  have hlen : (byte t.length).toNat = t.length := by rw [byte_toNat, Nat.mod_eq_of_lt h]
  rw [text, List.cons_append, getText, hlen, splitBytes, if_neg (by simp), List.take_left, List.drop_left]

/-- A field with a presence flag is read back, or found absent. -/
theorem getIf_encoded {α : Type} {get : List Byte → Option (α × List Byte)} {encode : α → List Byte} {o : Option α}
    (bs : List Byte) (h : ∀ x, o = some x → get (encode x ++ bs) = some (x, bs)) :
    getIf o.isSome get ((o.map encode).getD [] ++ bs) = some (o, bs) := by
  cases o with
  | none => rfl
  | some x =>
    show (get (encode x ++ bs)).map _ = _
    rw [h x rfl]
    rfl

/-- The record flags: PLENARY and the three presence flags. -/
theorem SessionRecord.flagsByte_bits (r : SessionRecord) :
    r.flagsByte.getLsbD 0 = r.plenary ∧ r.flagsByte.getLsbD 1 = r.movedTo.isSome ∧
      r.flagsByte.getLsbD 2 = r.track.isSome ∧ r.flagsByte.getLsbD 3 = r.speaker.isSome := by
  unfold SessionRecord.flagsByte flagBit
  generalize r.plenary = a, r.movedTo.isSome = b, r.track.isSome = c, r.speaker.isSome = d
  revert a b c d
  decide

/-! ## The record -/

/-- A record with fields that fit their bytes. -/
structure SessionRecord.Fits (r : SessionRecord) : Prop where
  publisher : r.publisher < 65536
  number : r.number < 65536
  version : r.version < 65536
  roomCount : r.rooms.length < 256
  rooms : ∀ m ∈ r.rooms, m < 65536
  day : r.day < 256
  startMin : r.startMin < 65536
  endMin : r.endMin < 65536
  movedTo : ∀ m, r.movedTo = some m → m < 65536
  title : r.title.length < 256
  track : ∀ x, r.track = some x → x.length < 256
  speaker : ∀ x, r.speaker = some x → x.length < 256

/-- The record as its bytes read. -/
def SessionRecord.raw (r : SessionRecord) : RawRecord :=
  { publisher := r.publisher, number := r.number, version := r.version, status := r.status.code, plenary := r.plenary
    rooms := r.rooms, day := r.day, startMin := r.startMin, endMin := r.endMin, movedTo := r.movedTo, title := r.title
    track := r.track, speaker := r.speaker }

/-- What a record's bytes end with: moved-to room, title, track label and speaker line. -/
def SessionRecord.tail (r : SessionRecord) : List Byte :=
  (r.movedTo.map be16).getD [] ++ (text r.title ++ ((r.track.map text).getD [] ++ ((r.speaker.map text).getD [] ++ [])))

theorem parseTail_tail {r : SessionRecord} (h : r.Fits) :
    parseTail r.flagsByte r.tail = some (r.movedTo, r.title, r.track, r.speaker) := by
  obtain ⟨-, hmoved, htrack, hspeaker⟩ := r.flagsByte_bits
  rw [parseTail, SessionRecord.tail, hmoved, htrack, hspeaker,
    getIf_encoded _ fun m hm => getWord_be16 (h.movedTo m hm) _]
  dsimp only
  rw [getText_text h.title]
  dsimp only
  rw [getIf_encoded _ fun x hx => getText_text (h.track x hx) _]
  dsimp only
  rw [getIf_encoded _ fun x hx => getText_text (h.speaker x hx) _]

theorem encodeRecord_eq (r : SessionRecord) : encodeRecord r =
    byte (r.publisher / 256) :: byte r.publisher :: byte (r.number / 256) :: byte r.number :: byte (r.version / 256) ::
      byte r.version :: byte r.status.code :: r.flagsByte :: byte r.rooms.length :: (r.rooms.flatMap be16 ++
        (byte r.day :: byte (r.startMin / 256) :: byte r.startMin :: byte (r.endMin / 256) :: byte r.endMin :: r.tail)) := by
  simp [encodeRecord, SessionRecord.tail, be16]

/-- R182: a record whose fields fit is read back field by field. -/
theorem parseRecord_encodeRecord {r : SessionRecord} (h : r.Fits) : parseRecord (encodeRecord r) = some r.raw := by
  have hrooms : (byte r.rooms.length).toNat = r.rooms.length := by rw [byte_toNat, Nat.mod_eq_of_lt h.roomCount]
  have hday : (byte r.day).toNat = r.day := by rw [byte_toNat, Nat.mod_eq_of_lt h.day]
  have hstatus : (byte r.status.code).toNat = r.status.code := by cases r.status <;> rfl
  rw [encodeRecord_eq, parseRecord, hrooms, getWords_flatMap_be16 h.rooms]
  dsimp only
  rw [parseTail_tail h, r.flagsByte_bits.1, val16_be16 h.publisher, val16_be16 h.number, val16_be16 h.version,
    val16_be16 h.startMin, val16_be16 h.endMin, hday, hstatus]
  rfl

/-! ## Checks and normalising -/

/-- R30: rooms that stand once each are kept as they are. -/
theorem eraseDups_of_nodup {rooms : List Nat} (h : rooms.Nodup) : rooms.eraseDups = rooms := by
  induction rooms with
  | nil => rfl
  | cons m rooms ih =>
    obtain ⟨hm, hrest⟩ := List.nodup_cons.1 h
    have hkeep : rooms.filter (fun x => !x == m) = rooms :=
      List.filter_eq_self.2 fun x hx => by simpa using fun heq : x = m => hm (heq ▸ hx)
    rw [List.eraseDups_cons, hkeep, ih hrest]

/-- R30: a text without control codes is kept as it is. -/
theorem map_cleanChar {t : List Byte} (h : ∀ c ∈ t, 0x20 ≤ c.toNat) : t.map cleanChar = t :=
  (List.map_congr_left fun c hc => if_neg (Nat.not_lt.2 (h c hc))).trans (List.map_id t)

theorem optionMap_cleanChar {o : Option (List Byte)} (h : ∀ x, o = some x → ∀ c ∈ x, 0x20 ≤ c.toNat) :
    o.map (·.map cleanChar) = o := by
  cases o with
  | none => rfl
  | some x => exact congrArg some (map_cleanChar (h x rfl))

theorem statusOfCode_code (st : Status) : statusOfCode st.code = some st := by cases st <;> rfl

theorem Status.code_eq_four_iff (st : Status) : st.code = 4 ↔ st = .withdrawn := by cases st <;> decide

theorem Status.code_eq_two_iff (st : Status) : st.code = 2 ↔ st = .moved := by cases st <;> decide

/-- R30, R59: a WITHDRAWN record in its fixed form is its own normal form. -/
theorem SessionRecord.normalise_raw_withdrawn {r : SessionRecord} (hw : r.status = .withdrawn) (hrooms : r.rooms.Nodup)
    (h : r.day = 0 ∧ r.startMin = 0 ∧ r.endMin = 0 ∧ r.movedTo = none ∧ r.title = [] ∧ r.track = none ∧ r.speaker = none) :
    r.raw.normalise = r := by
  obtain ⟨hday, hstart, hend, hmoved, htitle, htrack, hspeaker⟩ := h
  have hrooms' : r.raw.rooms.eraseDups = r.rooms := eraseDups_of_nodup hrooms
  rw [RawRecord.normalise_withdrawn ((Status.code_eq_four_iff _).2 hw), hrooms']
  cases r
  simp_all [SessionRecord.raw]

/-- R30, R59: so is any other record without repeated rooms and control codes. -/
theorem SessionRecord.normalise_raw_kept {r : SessionRecord} (hw : r.status ≠ .withdrawn) (hrooms : r.rooms.Nodup)
    (htitle : ∀ c ∈ r.title, 0x20 ≤ c.toNat) (htrack : ∀ x, r.track = some x → ∀ c ∈ x, 0x20 ≤ c.toNat)
    (hspeaker : ∀ x, r.speaker = some x → ∀ c ∈ x, 0x20 ≤ c.toNat) : r.raw.normalise = r := by
  have hcode : r.raw.status ≠ 4 := fun h => hw ((Status.code_eq_four_iff _).1 h)
  have hle : r.raw.status ≤ 4 := by
    show r.status.code ≤ 4
    cases r.status <;> decide
  have hrooms' : r.raw.rooms.eraseDups = r.rooms := eraseDups_of_nodup hrooms
  have hstatus : statusOfCode r.raw.status = some r.status := statusOfCode_code r.status
  have htitle' : r.raw.title.map cleanChar = r.title := map_cleanChar htitle
  have htrack' : r.raw.track.map (·.map cleanChar) = r.track := optionMap_cleanChar htrack
  have hspeaker' : r.raw.speaker.map (·.map cleanChar) = r.speaker := optionMap_cleanChar hspeaker
  rw [RawRecord.normalise_kept hle hcode, hrooms', hstatus, htitle', htrack', hspeaker']
  rfl

/-- R30: times, texts and moved-to room as a record that is not WITHDRAWN has them pass their checks. -/
theorem SessionRecord.detailsOk_raw {r : SessionRecord} (htimes : r.startMin < r.endMin ∧ r.endMin ≤ 1440)
    (htitle : r.title.length ≤ 48) (htrack : ∀ x, r.track = some x → x.length ≤ 16)
    (hspeaker : ∀ x, r.speaker = some x → x.length ≤ 32) (hmoved : r.movedTo.isSome = true ↔ r.status = .moved)
    (hroom : ∀ m, r.movedTo = some m → 1 ≤ m ∧ m ≤ 1023) : r.raw.detailsOk = true := by
  rw [← Bool.not_eq_false, RawRecord.detailsOk_eq_false_iff]
  simp only [SessionRecord.raw, Status.code_eq_two_iff]
  rintro (h | h | h | ⟨x, hx, h⟩ | ⟨x, hx, h⟩ | h | ⟨m, hm, h⟩)
  · omega
  · omega
  · omega
  · have := htrack x hx
    omega
  · have := hspeaker x hx
    omega
  · exact h hmoved.symm
  · have := hroom m hm
    omega

/-- R30: such a record passes all the checks. -/
theorem SessionRecord.ok_raw {r : SessionRecord} (hpublisher : 1 ≤ r.publisher ∧ r.publisher ≤ 4000) (hnumber : 1 ≤ r.number)
    (hversion : 1 ≤ r.version) (hcount : 1 ≤ r.rooms.length ∧ r.rooms.length ≤ 4) (hrooms : ∀ m ∈ r.rooms, 1 ≤ m ∧ m ≤ 1023)
    (hdetails : r.status ≠ .withdrawn → r.raw.detailsOk = true) : r.raw.ok = true := by
  have hcode : r.status.code ≤ 4 := by cases r.status <;> decide
  rw [← Bool.not_eq_false, RawRecord.ok_eq_false_iff, RawRecord.Faulty, ← RawRecord.detailsOk_eq_false_iff]
  show ¬(r.publisher = 0 ∨ 4000 < r.publisher ∨ r.number = 0 ∨ r.version = 0 ∨ 4 < r.status.code ∨ r.rooms = [] ∨
    4 < r.rooms.length ∨ (∃ m ∈ r.rooms, m = 0 ∨ 1023 < m) ∨ (r.status.code ≠ 4 ∧ r.raw.detailsOk = false))
  rintro (h | h | h | h | h | h | h | ⟨m, hm, h⟩ | ⟨hs, h⟩)
  · omega
  · omega
  · omega
  · omega
  · omega
  · simp [h] at hcount
  · omega
  · have := hrooms m hm
    omega
  · simp [hdetails fun hw => hs ((Status.code_eq_four_iff _).2 hw)] at h

/-- Settles O20. -/
theorem sessionRecordIsReadBack : Obligations.SessionRecordIsReadBack := by
  intro r ⟨hpublisher, hpublisher'⟩ ⟨hnumber, hnumber'⟩ ⟨hversion, hversion'⟩ ⟨hcount, hcount'⟩ hnodup hrooms
    hwithdrawn hkept
  have hfit : ∀ m, 1 ≤ m ∧ m ≤ 1023 → m < 65536 := fun m hm => by omega
  have hsound : (r.day < 256 ∧ r.startMin < 65536 ∧ r.endMin < 65536 ∧ (∀ m, r.movedTo = some m → m < 65536) ∧
      r.title.length < 256 ∧ (∀ x, r.track = some x → x.length < 256) ∧ ∀ x, r.speaker = some x → x.length < 256) ∧
      r.raw.normalise = r ∧ (r.status ≠ .withdrawn → r.raw.detailsOk = true) := by
    by_cases hw : r.status = .withdrawn
    · obtain ⟨hday, hstart, hend, hmoved, htitle, htrack, hspeaker⟩ := hwithdrawn hw
      exact ⟨by simp [hday, hstart, hend, hmoved, htitle, htrack, hspeaker],
        SessionRecord.normalise_raw_withdrawn hw hnodup (hwithdrawn hw), fun hne => absurd hw hne⟩
    · obtain ⟨hday, hstart, hend, htitle, htrack, hspeaker, hclean, hmoved, hroom⟩ := hkept hw
      exact ⟨⟨hday, by omega, by omega, fun m hm => hfit m (hroom m hm), by omega,
          fun x hx => by have := (htrack x hx).1; omega, fun x hx => by have := (hspeaker x hx).1; omega⟩,
        SessionRecord.normalise_raw_kept hw hnodup hclean (fun x hx => (htrack x hx).2) (fun x hx => (hspeaker x hx).2),
        fun _ => SessionRecord.detailsOk_raw ⟨hstart, hend⟩ htitle (fun x hx => (htrack x hx).1)
          (fun x hx => (hspeaker x hx).1) hmoved hroom⟩
  obtain ⟨⟨hday, hstart, hend, hmoved, htitle, htrack, hspeaker⟩, hnorm, hdetails⟩ := hsound
  have hfits : r.Fits :=
    { publisher := by omega, number := hnumber', version := hversion', roomCount := by omega
      rooms := fun m hm => hfit m (hrooms m hm), day := hday, startMin := hstart, endMin := hend, movedTo := hmoved
      title := htitle, track := htrack, speaker := hspeaker }
  have hok : r.raw.ok = true :=
    SessionRecord.ok_raw ⟨hpublisher, hpublisher'⟩ hnumber hversion ⟨hcount, hcount'⟩ hrooms hdetails
  rw [readRecord, parseRecord_encodeRecord hfits]
  exact (if_pos hok).trans (congrArg some hnorm)

end Sys2Proof.Machine
end

section
/-! PROOFS. Merges into the Session Table: the insertion of a new key (O30). -/

namespace Sys2Proof.Machine

/-! ## Arrival time, slot and key -/

/-- A running maximum of successors is the least number at or above its start and above every element. -/
theorem foldl_max_succ_le {α : Type} (f : α → Nat) (l : List α) {n b : Nat} (hn : n ≤ b) (h : ∀ x ∈ l, f x < b) :
    l.foldl (fun t x => max t (f x + 1)) n ≤ b := by
  induction l generalizing n with
  | nil => exact hn
  | cons a l ih =>
    obtain ⟨ha, hl⟩ := List.forall_mem_cons.1 h
    exact ih (Nat.max_le.2 ⟨hn, ha⟩) hl

/-- R61: the arrival time of a merge. -/
theorem SessionTable.arrivalOf_arrivalNow (tb : SessionTable) : ArrivalOf tb tb.arrivalNow :=
  ⟨tb.arrivalNow_spec.1, tb.arrivalNow_spec.2, fun _ hnow hlast => foldl_max_succ_le SessionEntry.arrival tb.entries hnow hlast⟩

/-- There is one such time. -/
theorem ArrivalOf.eq_arrivalNow {tb : SessionTable} {a : Nat} (h : ArrivalOf tb a) : a = tb.arrivalNow :=
  Nat.le_antisymm (h.first _ tb.arrivalOf_arrivalNow.now tb.arrivalOf_arrivalNow.last)
    (tb.arrivalOf_arrivalNow.first _ h.now h.last)

/-- R61: a table with room has an empty slot, and the lowest is the one found. -/
theorem SessionTable.freeSlot_spec {tb : SessionTable} (h : tb.entries.length < 64) :
    ∃ slot, tb.freeSlot = some slot ∧ slot < 64 ∧ (∀ e ∈ tb.entries, e.slot ≠ slot) ∧
      ∀ j, j < slot → ∃ e ∈ tb.entries, e.slot = j := by
  cases hfree : tb.freeSlot with
  | none =>
    have htaken : List.range 64 ⊆ tb.entries.map (·.slot) := fun i hi => by
      simpa using List.find?_range_eq_none.1 hfree i (List.mem_range.1 hi)
    have hcount := (List.subperm_of_subset List.nodup_range htaken).length_le
    rw [List.length_range, List.length_map] at hcount
    omega
  | some slot =>
    obtain ⟨hempty, hlt, hlower⟩ := List.find?_range_eq_some.1 hfree
    exact ⟨slot, rfl, List.mem_range.1 hlt, by simpa using hempty, fun j hj => by simpa using hlower j hj⟩

/-- R63: no entry holds the key. -/
theorem SessionTable.holding_eq_none {tb : SessionTable} {key : Nat × Nat} (h : ∀ e ∈ tb.entries, e.record.key ≠ key) :
    tb.holding key = none :=
  List.find?_eq_none.2 fun e he => by simpa using h e he

/-- R63, R64: a merge of a key not held is an insertion. -/
theorem SessionTable.merge_newKey {tb : SessionTable} {r : SessionRecord} (h : ∀ e ∈ tb.entries, e.record.key ≠ r.key)
    (st : Settings) (t : TimeUnit) (isLocal : Bool) : tb.merge st t r isLocal = tb.insert st t r isLocal := by
  rw [SessionTable.merge, SessionTable.holding_eq_none h]

/-! ## Entries placed -/

/-- R132: a room set holds the home room. -/
theorem Settings.homeIn_iff (st : Settings) (rooms : List Nat) :
    st.homeIn rooms = true ↔ st.homeRoom ≠ 0 ∧ st.homeRoom ∈ rooms := by
  simp [Settings.homeIn, Settings.nameplate]

/-- R62, R64, R65: the entry of an insertion or a replacement. -/
theorem newEntry_eq (st : Settings) (arrival slot : Nat) (r : SessionRecord) (isLocal : Bool) :
    newEntry st arrival slot r isLocal =
      { slot := slot, record := r, arrival := arrival, isLocal := isLocal
        nextRefresh := if (st.homeRoom ≠ 0 ∧ st.homeRoom ∈ r.rooms) ∨ isLocal = true then
          some (arrival + 60000000 + st.stationId % 16 * 250000) else none
        expiry := if r.status = .withdrawn then some (arrival + 600000000) else none } := by
  simp only [newEntry, Bool.or_eq_true, Settings.homeIn_iff]
  rfl

/-- R81: a slot that is not marked joins the end of the order. -/
theorem markChanged_of_notMem {slot : Nat} {order : List Nat} (h : slot ∉ order) : markChanged slot order = order ++ [slot] := by
  simp [markChanged, h]

/-- R64, R81: an entry placed in a slot that nothing in the table speaks of. -/
theorem SessionTable.place_new {tb : SessionTable} {e : SessionEntry} (hslot : ∀ x ∈ tb.entries, x.slot ≠ e.slot)
    (hmark : e.slot ∉ tb.changed) :
    tb.place e = { tb with entries := tb.entries ++ [e], changed := tb.changed ++ [e.slot] } := by
  have hkeep : tb.entries.filter (fun x => decide (x.slot ≠ e.slot)) = tb.entries :=
    List.filter_eq_self.2 fun x hx => by simpa using hslot x hx
  rw [SessionTable.place, hkeep, markChanged_of_notMem hmark]

/-- An empty slot is not marked. -/
theorem TableOk.notMem_changed {tb : SessionTable} (h : TableOk tb) {slot : Nat} (hslot : ∀ e ∈ tb.entries, e.slot ≠ slot) :
    slot ∉ tb.changed := fun hm =>
  let ⟨e, he, heq⟩ := h.marksHeld slot hm
  hslot e he heq

/-- R61, R62, R64, R81, R82. -/
theorem newKeyOfEitherOriginIsInserted : Claims.NewKeyOfEitherOriginIsInserted := by
  intro st t tb r isLocal hok hroom hkey
  obtain ⟨slot, hfree, hlt, hempty, hlower⟩ := SessionTable.freeSlot_spec hroom
  refine ⟨tb.arrivalNow, slot, tb.arrivalOf_arrivalNow, hlt, hempty, hlower, ?_⟩
  rw [SessionTable.merge_newKey hkey]
  simp only [SessionTable.insert, hroom, if_true, hfree, Option.getD_some, ← newEntry_eq]
  rw [SessionTable.place_new (e := newEntry st tb.arrivalNow slot r isLocal) hempty (hok.notMem_changed hempty)]
  rfl

/-! ## INBOUND_MERGE -/

/-- R34, R63, R82: the record of the SESSION frame at the head is merged. -/
theorem exec_inboundMerge {s : State} {f : InFrame} {rest : List InFrame} {r : SessionRecord} (hin : s.inbound = f :: rest)
    (hbody : f.body = .session r) :
    exec .inboundMerge s =
      let o := s.sessions.merge s.settings s.time r false
      .next { s with
        inbound := rest
        sessions := o.table.settle
        composer := s.composer.onSessions s.settings s.passNow o.reports
        port := { s.port with notices := s.port.notices ||| o.notices } } := by
  show execInboundMerge s = _
  simp only [execInboundMerge, hin, hbody]
  rfl

/-- R61, R62, R64, R81, R82. -/
theorem inboundMergeOfANewKey : Claims.InboundMergeOfANewKey := by
  intro s f rest r hin hbody hok hroom hkey new
  obtain ⟨arrival, slot, harrival, hlt, hempty, hlower, hmerge⟩ :=
    newKeyOfEitherOriginIsInserted s.settings s.time s.sessions r false hok hroom hkey
  refine ⟨arrival, slot, harrival, hlt, hempty, hlower, ?_⟩
  rw [exec_inboundMerge hin hbody, hmerge]
  have hnotices : s.port.notices ||| 0 = s.port.notices := BitVec.or_zero
  simp only [hnotices, Bool.false_eq_true, or_false]
  rfl

/-- Settles O30. -/
theorem inboundMergeInsertsANewKey : Obligations.InboundMergeInsertsANewKey :=
  ⟨inboundMergeOfANewKey, newKeyOfEitherOriginIsInserted⟩

end Sys2Proof.Machine
end

section
/-! PROOFS. Merges of a held key and into a full table (O31). -/

namespace Sys2Proof.Machine

/-- R34: with no SESSION frame at the head nothing is merged. -/
theorem exec_inboundMerge_none {s : State} (h : ∀ f rest r, s.inbound = f :: rest → f.body ≠ .session r) :
    exec .inboundMerge s = .next s := by
  show execInboundMerge s = _
  cases hin : s.inbound with
  | nil => simp only [execInboundMerge, hin]
  | cons f rest =>
    cases hbody : f.body with
    | session r => exact absurd hbody (h f rest r hin)
    | beacon | advert | condition => simp only [execInboundMerge, hin, hbody]

/-- R34, R63, R82. -/
theorem inboundMergeIsAMerge : Claims.InboundMergeIsAMerge := fun _ =>
  ⟨fun _ _ _ hin hbody => exec_inboundMerge hin hbody, exec_inboundMerge_none⟩

/-! ## A held key -/

/-- Of entries that differ in something no other has what one has. -/
theorem other_ne_of_nodup {β : Type} {f : SessionEntry → β} {older newer : List SessionEntry} {e : SessionEntry}
    (h : ((older ++ e :: newer).map f).Nodup) : ∀ x ∈ older ++ newer, f x ≠ f e := by
  rw [List.map_append, List.map_cons, List.nodup_middle, ← List.map_append, List.nodup_cons] at h
  exact fun x hx heq => h.1 (heq ▸ List.mem_map_of_mem hx)

/-- R61: the entries of other slots are the ones before and after. -/
theorem filter_slot_split {older newer : List SessionEntry} {e : SessionEntry}
    (h : ((older ++ e :: newer).map (·.slot)).Nodup) :
    (older ++ e :: newer).filter (fun x => decide (x.slot ≠ e.slot)) = older ++ newer := by
  rw [List.filter_append, List.filter_cons_of_neg (by simp), ← List.filter_append]
  exact List.filter_eq_self.2 fun x hx => decide_eq_true (other_ne_of_nodup h x hx)

/-- A change of the entry in a slot leaves those before and after. -/
theorem map_slot_split {older newer : List SessionEntry} {e : SessionEntry} (g : SessionEntry → SessionEntry)
    (h : ((older ++ e :: newer).map (·.slot)).Nodup) :
    (older ++ e :: newer).map (fun x => if x.slot = e.slot then g x else x) = older ++ g e :: newer := by
  have hother := List.forall_mem_append.1 (other_ne_of_nodup h)
  have hkeep : ∀ l : List SessionEntry, (∀ x ∈ l, x.slot ≠ e.slot) →
      l.map (fun x => if x.slot = e.slot then g x else x) = l := fun l hl =>
    (List.map_congr_left fun x hx => if_neg (hl x hx)).trans (List.map_id l)
  rw [List.map_append, List.map_cons, hkeep older hother.1, hkeep newer hother.2, if_pos rfl]

/-- R63: the entry that holds a key. -/
theorem SessionTable.holding_split {tb : SessionTable} {older newer : List SessionEntry} {e : SessionEntry}
    (hok : TableOk tb) (h : tb.entries = older ++ e :: newer) : tb.holding e.record.key = some e := by
  have hother := other_ne_of_nodup (h ▸ hok.keysOnce)
  refine List.find?_eq_some_iff_append.2 ⟨by simp, older, newer, h, fun x hx => ?_⟩
  simpa using hother x (List.mem_append_left _ hx)

/-- R62: the entries that the station refreshes. -/
theorem SessionEntry.refreshable_eq (st : Settings) (clock : Nat) (e : SessionEntry) : e.refreshable st clock =
    ((decide (st.homeRoom ≠ 0 ∧ st.homeRoom ∈ e.record.rooms) || e.isLocal) &&
      !(decide (e.record.status = .withdrawn) && e.expiry.any fun t => decide (t ≤ clock))) := by
  have hhome : st.homeIn e.record.rooms = decide (st.homeRoom ≠ 0 ∧ st.homeRoom ∈ e.record.rooms) := by
    rw [Bool.eq_iff_iff, Settings.homeIn_iff, decide_eq_true_iff]
  rw [SessionEntry.refreshable, hhome]
  rfl

/-- R66, R68: the next refresh time of a refreshable entry moves. -/
theorem SessionTable.setRefresh_if {tb : SessionTable} {older newer : List SessionEntry} {e : SessionEntry} (hok : TableOk tb)
    (h : tb.entries = older ++ e :: newer) (c : Bool) (t : Option Nat) :
    (if c then tb.setRefresh e.slot t else tb) =
      { tb with entries := older ++ (if c then { e with nextRefresh := t } else e) :: newer } := by
  cases c with
  | false =>
    show tb = { tb with entries := older ++ e :: newer }
    rw [← h]
  | true =>
    show tb.setRefresh e.slot t = { tb with entries := older ++ { e with nextRefresh := t } :: newer }
    rw [SessionTable.setRefresh, h, map_slot_split (fun x => { x with nextRefresh := t }) (h ▸ hok.slotsOnce)]

/-- R65, R81: a replacement in the entry's slot. -/
theorem SessionTable.place_replace {tb : SessionTable} {older newer : List SessionEntry} {e x : SessionEntry} (hok : TableOk tb)
    (h : tb.entries = older ++ e :: newer) (hslot : x.slot = e.slot) :
    tb.place x = { tb with
      entries := older ++ newer ++ [x]
      changed := if e.slot ∈ tb.changed then tb.changed else tb.changed ++ [e.slot] } := by
  rw [SessionTable.place, hslot, h, filter_slot_split (h ▸ hok.slotsOnce), markChanged]
  simp only [List.contains_iff_mem]

/-- R62, R63, R65 to R68. -/
theorem mergeFollowsTheVersions : Claims.MergeFollowsTheVersions := by
  intro st t tb r isLocal older e newer arrival hok harrival hsplit hpublisher hnumber at_ new own
  have hkey : r.key = e.record.key := by rw [SessionRecord.key, SessionRecord.key, hpublisher, hnumber]
  have hnew : newEntry st tb.arrivalNow e.slot r isLocal = new := by rw [newEntry_eq, ← harrival.eq_arrivalNow]
  have hown : e.refreshable st tb.clock = own e := SessionEntry.refreshable_eq st tb.clock e
  rw [SessionTable.merge, hkey, SessionTable.holding_split hok hsplit]
  dsimp only
  refine ⟨fun hlt => ?_, fun heq => ?_, fun hv hne => ?_, fun hlt => ?_⟩
  · rw [if_pos hlt, hnew, SessionTable.place_replace (x := new) hok hsplit rfl, ← hkey]
    rfl
  · have hv : r.version = e.record.version := congrArg _ heq
    rw [if_neg (by omega), if_pos hv, if_pos heq, SessionTable.setRefresh_if hok hsplit, hown]
    rfl
  · rw [if_neg (by omega), if_pos hv, if_neg hne]
    rfl
  · rw [if_neg (by omega), if_neg (by omega), SessionTable.setRefresh_if hok hsplit, hown]
    rfl

/-! ## The first and the best of a list in order of arrival -/

/-- The element that is better than every one before it and that none after it is better than is picked. -/
theorem pickBest_split {α : Type} {better : α → α → Bool} {before after : List α} {x : α}
    (hbefore : ∀ y ∈ before, better x y = true) (hafter : ∀ y ∈ after, better y x = false) :
    pickBest better (before ++ x :: after) = some x := by
  have hstay : ∀ l : List α, (∀ y ∈ l, better y x = false) → l.foldl (pickStep better) (some x) = some x := by
    intro l hl
    induction l with
    | nil => rfl
    | cons y l ih =>
      obtain ⟨hy, hrest⟩ := List.forall_mem_cons.1 hl
      have hstep : pickStep better (some x) y = some x := if_neg (by simp [hy])
      rw [List.foldl_cons, hstep, ih hrest]
  have htake : pickStep better (before.foldl (pickStep better) none) x = some x := by
    cases hb : before.foldl (pickStep better) none with
    | none => rfl
    | some b =>
      have hmem : b ∈ before := (pickStep_foldl_mem better before none hb).resolve_right (by simp)
      exact if_pos (hbefore b hmem)
  show (before ++ x :: after).foldl (pickStep better) none = some x
  rw [List.foldl_append, List.foldl_cons, htake, hstay after hafter]

/-- In a list in order of arrival, what stands before an entry arrived before it, and what stands after it later. -/
theorem arrival_split {older newer : List SessionEntry} {e : SessionEntry}
    (h : ((older ++ e :: newer).map (·.arrival)).Pairwise (· < ·)) :
    (∀ x ∈ older, x.arrival < e.arrival) ∧ ∀ x ∈ newer, e.arrival < x.arrival := by
  rw [List.pairwise_map, List.pairwise_append, List.pairwise_cons] at h
  obtain ⟨-, ⟨hnewer, -⟩, holder⟩ := h
  exact ⟨fun x hx => holder x hx e (by simp), hnewer⟩

/-- The earliest arrived of the entries with a property is the one found. -/
theorem find?_earliest {p : SessionEntry → Bool} {l : List SessionEntry} {e : SessionEntry}
    (hl : (l.map (·.arrival)).Pairwise (· < ·)) (he : e ∈ l) (hp : p e = true)
    (hfirst : ∀ x ∈ l, p x = true → e.arrival ≤ x.arrival) : l.find? p = some e := by
  obtain ⟨older, newer, rfl⟩ := List.append_of_mem he
  refine List.find?_eq_some_iff_append.2 ⟨hp, older, newer, rfl, fun x hx => ?_⟩
  have hlt := (arrival_split hl).1 x hx
  by_contra hpx
  have := hfirst x (List.mem_append_left _ hx) (by simpa using hpx)
  omega

/-- The entry that is better than every earlier one, and that no later one is better than, is picked. -/
theorem pickBest_arrival {better : SessionEntry → SessionEntry → Bool} {l : List SessionEntry} {e : SessionEntry}
    (hl : (l.map (·.arrival)).Pairwise (· < ·)) (he : e ∈ l)
    (hearlier : ∀ x ∈ l, x.arrival < e.arrival → better e x = true)
    (hlater : ∀ x ∈ l, e.arrival < x.arrival → better x e = false) : pickBest better l = some e := by
  obtain ⟨older, newer, rfl⟩ := List.append_of_mem he
  obtain ⟨holder, hnewer⟩ := arrival_split hl
  exact pickBest_split (fun x hx => hearlier x (by simp [hx]) (holder x hx)) (fun x hx => hlater x (by simp [hx]) (hnewer x hx))

/-! ## Eviction (R69, R70) -/

/-- R69: what is evicted is held. -/
theorem SessionTable.victim_mem {st : Settings} {t : TimeUnit} {r : SessionRecord} {tb : SessionTable} {v : SessionEntry}
    (h : tb.victim st t r = some v) : v ∈ tb.entries := by
  unfold SessionTable.victim at h
  rcases (Option.orElse_eq_some ..).1 h with h | ⟨-, h⟩
  · exact List.mem_of_find?_eq_some h
  rcases (Option.orElse_eq_some ..).1 h with h | ⟨-, h⟩
  · exact List.mem_of_find?_eq_some h
  rcases (Option.orElse_eq_some ..).1 h with h | ⟨-, h⟩
  · split at h
    · exact (List.mem_filter.1 (pickBest_mem h)).1
    · cases h
  · split at h
    · exact (List.mem_filter.1 (pickBest_mem h)).1
    · cases h

/-- R69, R74, R81: an entry displaced in its slot, with its changed mark and its refresh request. -/
theorem SessionTable.remove_place {tb : SessionTable} {v x : SessionEntry} (hok : TableOk tb) (hv : v ∈ tb.entries)
    (hslot : x.slot = v.slot) : (tb.remove v.slot).place x = { tb with
      entries := (tb.entries.filter fun e => decide (e ≠ v)) ++ [x]
      changed := (tb.changed.filter fun i => decide (i ≠ v.slot)) ++ [v.slot]
      refreshReqs := tb.refreshReqs.filter fun q => decide (q.2 ≠ v.slot) } := by
  have hothers : tb.entries.filter (fun e => decide (e.slot ≠ v.slot)) = tb.entries.filter fun e => decide (e ≠ v) :=
    List.filter_congr fun e he => decide_eq_decide.2 <| not_congr
      ⟨fun h => List.inj_on_of_nodup_map hok.slotsOnce he hv h, fun h => h ▸ rfl⟩
  have hempty : ∀ e ∈ (tb.remove v.slot).entries, e.slot ≠ x.slot := fun e he => by
    simpa [hslot] using (List.mem_filter.1 he).2
  have hmark : x.slot ∉ (tb.remove v.slot).changed := by simp [SessionTable.remove, hslot]
  rw [SessionTable.place_new hempty hmark, ← hothers, hslot]
  rfl

/-- R69 step 1. -/
theorem SessionTable.victim_of_expired {st : Settings} {t : TimeUnit} {r : SessionRecord} {tb : SessionTable} {e : SessionEntry}
    (h : tb.entries.find? (fun e => e.isTombstone && e.expired tb.clock) = some e) : tb.victim st t r = some e := by
  rw [SessionTable.victim, h]
  rfl

/-- R69 step 2. -/
theorem SessionTable.victim_of_tombstone {st : Settings} {t : TimeUnit} {r : SessionRecord} {tb : SessionTable} {e : SessionEntry}
    (h1 : tb.entries.find? (fun e => e.isTombstone && e.expired tb.clock) = none)
    (h : tb.entries.find? SessionEntry.isTombstone = some e) : tb.victim st t r = some e := by
  rw [SessionTable.victim, h1, h]
  rfl

/-- R69: in a table without tombstones steps 3 and 4 decide. -/
theorem SessionTable.victim_noTombstone {st : Settings} {t : TimeUnit} {r : SessionRecord} {tb : SessionTable}
    (h : ∀ x ∈ tb.entries, ¬x.record.status = .withdrawn) : tb.victim st t r =
      ((if t.known then pickBest (endedBefore t.stamp) (tb.entries.filter (·.ended t.stamp)) else none)
        <|> (if r.status ≠ .withdrawn then pickBest (startsLater r) (tb.entries.filter (·.laterThan st r)) else none)) := by
  have h1 : tb.entries.find? (fun e => e.isTombstone && e.expired tb.clock) = none :=
    List.find?_eq_none.2 fun x hx => by simp [SessionEntry.isTombstone, h x hx]
  have h2 : tb.entries.find? SessionEntry.isTombstone = none :=
    List.find?_eq_none.2 fun x hx => by simp [SessionEntry.isTombstone, h x hx]
  rw [SessionTable.victim, h1, h2]
  rfl

/-- R69 step 3: an entry that has ended, with known time. -/
theorem SessionEntry.ended_iff (t : TimeUnit) (e : SessionEntry) : t.known = true ∧ e.ended t.stamp = true ↔
    ¬e.record.status = .withdrawn ∧ (t.sync = .locked ∨ t.sync = .coasting) ∧
      ((1 ≤ dayAhead t.day e.record.day ∧ dayAhead t.day e.record.day ≤ 127) ∨
        (e.record.day = t.day ∧ e.record.endMin * 60000 ≤ t.ms)) := by
  simp only [TimeUnit.known, SessionEntry.ended, SessionEntry.isTombstone, Bool.or_eq_true, Bool.and_eq_true, Bool.not_eq_true',
    decide_eq_true_eq, decide_eq_false_iff_not]
  exact and_left_comm

/-- R69 step 4: an entry away from home that starts later. -/
theorem SessionEntry.laterThan_iff (st : Settings) (r : SessionRecord) (e : SessionEntry) : e.laterThan st r = true ↔
    ¬e.record.status = .withdrawn ∧ ¬(st.homeRoom ≠ 0 ∧ st.homeRoom ∈ e.record.rooms) ∧
      ((1 ≤ dayAhead e.record.day r.day ∧ dayAhead e.record.day r.day ≤ 127) ∨
        (e.record.day = r.day ∧ r.startMin < e.record.startMin)) := by
  simp only [SessionEntry.laterThan, SessionEntry.isTombstone, Bool.or_eq_true, Bool.and_eq_true, Bool.not_eq_true',
    decide_eq_true_eq, decide_eq_false_iff_not, ← Settings.homeIn_iff, Bool.not_eq_true, and_assoc]

/-- R69 step 3: the order of the ends. -/
theorem endedBefore_iff (now : Stamp) (x y : SessionEntry) : endedBefore now x y = true ↔
    dayAhead now.day y.record.day < dayAhead now.day x.record.day ∨
      (dayAhead now.day x.record.day = dayAhead now.day y.record.day ∧ x.record.endMin < y.record.endMin) := by
  simp only [endedBefore, Bool.or_eq_true, Bool.and_eq_true, decide_eq_true_eq]

/-- R69 step 4: the order of the starts. -/
theorem startsLater_iff (r : SessionRecord) (x y : SessionEntry) : startsLater r x y = true ↔
    dayAhead y.record.day r.day < dayAhead x.record.day r.day ∨
      (dayAhead x.record.day r.day = dayAhead y.record.day r.day ∧ y.record.startMin ≤ x.record.startMin) := by
  simp only [startsLater, Bool.or_eq_true, Bool.and_eq_true, decide_eq_true_eq]

/-- R69 step 3: an entry whose end lies further back than another's, with the earlier arrival where the ends are equal, is chosen
before it whichever of the two stands first. -/
theorem endedBefore_of_furthestBack {now : Stamp} {e x : SessionEntry}
    (h : dayAhead now.day x.record.day < dayAhead now.day e.record.day ∨
      (dayAhead now.day x.record.day = dayAhead now.day e.record.day ∧
        (e.record.endMin < x.record.endMin ∨ (e.record.endMin = x.record.endMin ∧ e.arrival < x.arrival)))) :
    (x.arrival < e.arrival → endedBefore now e x = true) ∧ (e.arrival < x.arrival → endedBefore now x e = false) := by
  rw [← Bool.not_eq_true, endedBefore_iff, endedBefore_iff]
  omega

/-- R69 step 4: an entry that starts later than another, with the later arrival where the starts are equal, is chosen before it
whichever of the two stands first. -/
theorem startsLater_of_latest {r : SessionRecord} {e x : SessionEntry}
    (h : dayAhead x.record.day r.day < dayAhead e.record.day r.day ∨
      (dayAhead x.record.day r.day = dayAhead e.record.day r.day ∧
        (x.record.startMin < e.record.startMin ∨ (x.record.startMin = e.record.startMin ∧ x.arrival < e.arrival)))) :
    (x.arrival < e.arrival → startsLater r e x = true) ∧ (e.arrival < x.arrival → startsLater r x e = false) := by
  rw [← Bool.not_eq_true, startsLater_iff, startsLater_iff]
  omega

/-- R61: a WITHDRAWN record's entry is a tombstone. -/
theorem SessionEntry.isTombstone_of {e : SessionEntry} (h : e.record.status = .withdrawn) : e.isTombstone = true :=
  decide_eq_true h

/-- R61: any choice of entries stands in order of arrival. -/
theorem TableOk.filter_arrivalOrder {tb : SessionTable} (h : TableOk tb) {p : SessionEntry → Bool} :
    ((tb.entries.filter p).map (·.arrival)).Pairwise (· < ·) :=
  h.arrivalOrder.sublist (List.filter_sublist.map _)

/-- R69 step 3 finds nothing where no entry has ended, or time is not known. -/
theorem pickEnded_eq_none {t : TimeUnit} {entries : List SessionEntry}
    (h : ∀ x ∈ entries, ¬(t.known = true ∧ x.ended t.stamp = true)) :
    (if t.known then pickBest (endedBefore t.stamp) (entries.filter (·.ended t.stamp)) else none) = none := by
  split
  · next hknown => exact pickBest_eq_none.2 (List.filter_eq_nil_iff.2 fun x hx hen => h x hx ⟨hknown, hen⟩)
  · rfl

/-- R69 step 4 finds nothing where no entry away from home starts later, or the record is WITHDRAWN. -/
theorem pickLater_eq_none {st : Settings} {r : SessionRecord} {entries : List SessionEntry}
    (h : ∀ x ∈ entries, ¬(r.status ≠ .withdrawn ∧ x.laterThan st r = true)) :
    (if r.status ≠ .withdrawn then pickBest (startsLater r) (entries.filter (·.laterThan st r)) else none) = none := by
  split
  · next hkept => exact pickBest_eq_none.2 (List.filter_eq_nil_iff.2 fun x hx hlate => h x hx ⟨hkept, hlate⟩)
  · rfl

/-- R69, R70, R74, R81. -/
theorem fullTableEvictsOrRefuses : Claims.FullTableEvictsOrRefuses := by
  intro st t tb r isLocal arrival ahead tombstone ended later furthestBack latest harrival hok hfull hkey
  have hended : ∀ e, t.known = true ∧ e.ended t.stamp = true ↔ ended e := SessionEntry.ended_iff t
  have hlater : ∀ e : SessionEntry, r.status ≠ .withdrawn ∧ e.laterThan st r = true ↔ later e := fun e => by
    rw [SessionEntry.laterThan_iff]
    exact and_left_comm
  have hinsert : tb.merge st t r isLocal = tb.insert st t r isLocal := SessionTable.merge_newKey hkey st t isLocal
  have hnoRoom : ¬tb.entries.length < 64 := by omega
  refine ⟨fun v hv => ⟨SessionTable.victim_mem hv, ?_⟩, fun hnone => ?_, fun e he htomb hexp hfirst => ?_,
    fun e he htomb hexp hfirst => ?_, fun e he hend htomb hbest => ?_, fun e he hl hothers hbest => ?_, fun hothers => ?_⟩
  · rw [hinsert, SessionTable.insert, if_neg hnoRoom, hv, harrival.eq_arrivalNow, ← newEntry_eq]
    dsimp only
    rw [SessionTable.remove_place (x := newEntry st tb.arrivalNow v.slot r isLocal) hok (SessionTable.victim_mem hv) rfl]
    rfl
  · rw [hinsert, SessionTable.insert, if_neg hnoRoom, hnone]
    rfl
  · refine SessionTable.victim_of_expired (find?_earliest hok.arrivalOrder he ?_ fun x hx hp => ?_)
    · rw [SessionEntry.isTombstone_of htomb, hexp]
      rfl
    · obtain ⟨hx1, hx2⟩ := Bool.and_eq_true_iff.1 hp
      exact hfirst x hx (decide_eq_true_iff.1 hx1) hx2
  · refine SessionTable.victim_of_tombstone (List.find?_eq_none.2 fun x hx hp => ?_)
      (find?_earliest hok.arrivalOrder he (SessionEntry.isTombstone_of htomb) fun x hx hp => hfirst x hx (decide_eq_true_iff.1 hp))
    obtain ⟨hx1, hx2⟩ := Bool.and_eq_true_iff.1 hp
    rw [hexp x hx (decide_eq_true_iff.1 hx1)] at hx2
    cases hx2
  · obtain ⟨hknown, hen⟩ := (hended e).2 hend
    have hback : ∀ x ∈ tb.entries.filter (·.ended t.stamp), x.arrival ≠ e.arrival → furthestBack e x := fun x hx hne =>
      hbest x (List.mem_of_mem_filter hx) ((hended x).1 ⟨hknown, (List.mem_filter.1 hx).2⟩) fun h => hne (h ▸ rfl)
    rw [SessionTable.victim_noTombstone htomb, if_pos hknown,
      pickBest_arrival hok.filter_arrivalOrder (List.mem_filter.2 ⟨he, hen⟩)
        (fun x hx hlt => (endedBefore_of_furthestBack (now := t.stamp) (e := e) (x := x) (hback x hx hlt.ne)).1 hlt)
        (fun x hx hlt => (endedBefore_of_furthestBack (now := t.stamp) (e := e) (x := x) (hback x hx hlt.ne')).2 hlt)]
    rfl
  · have htomb : ∀ x ∈ tb.entries, ¬x.record.status = .withdrawn := fun x hx => (hothers x hx).1
    obtain ⟨hkept, hlate⟩ := (hlater e).2 hl
    have hlast : ∀ x ∈ tb.entries.filter (·.laterThan st r), x.arrival ≠ e.arrival → latest e x := fun x hx hne =>
      hbest x (List.mem_of_mem_filter hx) ((hlater x).1 ⟨hkept, (List.mem_filter.1 hx).2⟩) fun h => hne (h ▸ rfl)
    rw [SessionTable.victim_noTombstone htomb, pickEnded_eq_none fun x hx => (hended x).not.2 (hothers x hx).2, if_pos hkept,
      pickBest_arrival hok.filter_arrivalOrder (List.mem_filter.2 ⟨he, hlate⟩)
        (fun x hx hlt => (startsLater_of_latest (hlast x hx hlt.ne)).1 hlt)
        (fun x hx hlt => (startsLater_of_latest (hlast x hx hlt.ne')).2 hlt)]
    rfl
  · rw [SessionTable.victim_noTombstone fun x hx => (hothers x hx).1,
      pickEnded_eq_none fun x hx => (hended x).not.2 (hothers x hx).2.1,
      pickLater_eq_none fun x hx => (hlater x).not.2 (hothers x hx).2.2]
    rfl

/-- Settles O31. -/
theorem heldAndFullMerges : Obligations.HeldAndFullMerges :=
  ⟨inboundMergeIsAMerge, mergeFollowsTheVersions, fullTableEvictsOrRefuses⟩

end Sys2Proof.Machine
end

section
/-! PROOFS. The order of the Route Engine's jobs, and how a job runs its entry operations (O41). -/

namespace Sys2Proof.Machine

/-! ## The order of the jobs (R101) -/

/-- A READ ROUTE is in hand. -/
theorem LocalPort.wantsRoute_isSome_iff (p : LocalPort) :
    p.wantsRoute.isSome = true ↔ ∃ room, p.inHand = some (.readRoute room) := by
  unfold LocalPort.wantsRoute
  split
  · next room h => simp [h]
  · next hne => simpa using fun room h => hne room h

/-- R101: a read that waits comes before every job. -/
theorem State.nextJob_read {s : State}
    (h : s.composerWantsRoute ≠ none ∨ ∃ room, s.port.inHand = some (.readRoute room)) : s.nextJob = none := by
  rw [← LocalPort.wantsRoute_isSome_iff, ← Option.isSome_iff_ne_none] at h
  exact if_pos (Bool.or_eq_true_iff.2 h)

/-- R101: with no read the job in hand goes on, or else the first of those that wait begins. -/
theorem State.nextJob_noRead {s : State}
    (h : ¬(s.composerWantsRoute ≠ none ∨ ∃ room, s.port.inHand = some (.readRoute room))) :
    (∀ j, s.routes.inHand = some j → s.nextJob = some j.job) ∧ (s.routes.inHand = none → s.nextJob = s.routes.firstJob) := by
  rw [← LocalPort.wantsRoute_isSome_iff, ← Option.isSome_iff_ne_none, ← Bool.or_eq_true_iff] at h
  unfold State.nextJob
  rw [if_neg h]
  exact ⟨fun j hj => by rw [hj], fun hnone => by rw [hnone]⟩

/-- R101: a prompt frame is due to be offered. -/
theorem RouteEngine.promptWaits_iff (e : RouteEngine) : e.promptWaits = true ↔ e.promptDue = true ∧ e.promptSet ≠ [] := by
  simp [RouteEngine.promptWaits]

/-- R101: of the jobs that wait, the one done first. -/
theorem RouteEngine.firstJob_spec (e : RouteEngine) :
    let frames : Prop := (e.promptDue = true ∧ e.promptSet ≠ []) ∨ e.round = .due
    (e.conditionJob = true → e.firstJob = some .condition) ∧ (e.conditionJob = false →
      (e.pinJob ≠ none → e.firstJob = some .pins) ∧ (e.pinJob = none →
        (e.advertJob ≠ none → e.firstJob = some .advert) ∧ (e.advertJob = none →
          (frames → e.firstJob = some .frames) ∧ (¬frames →
            e.firstJob = if e.sweepJob then some .sweep else none)))) := by
  intro frames
  have hframes : (e.promptWaits || decide (e.round = .due)) = true ↔ frames := by
    rw [Bool.or_eq_true, RouteEngine.promptWaits_iff, decide_eq_true_iff]
  clear_value frames
  refine ⟨fun hc => if_pos hc, fun hc => ⟨fun hp => ?_, fun hp => ⟨fun ha => ?_, fun ha => ⟨fun hf => ?_, fun hf => ?_⟩⟩⟩⟩
  · have hpins : e.pinJob.isSome = true := Option.isSome_iff_ne_none.2 hp
    simp [RouteEngine.firstJob, hc, hpins]
  · have hadvert : e.advertJob.isSome = true := Option.isSome_iff_ne_none.2 ha
    simp [RouteEngine.firstJob, hc, hp, hadvert]
  · simp [RouteEngine.firstJob, hc, hp, ha, hframes.2 hf]
  · simp [RouteEngine.firstJob, hc, hp, ha, hframes.not.2 hf]

/-- R101: a job that is not the one to go on with does nothing. -/
theorem State.doJob_other {job : Job} {s : State} (h : s.nextJob ≠ some job) (upTo : Option Nat) : s.doJob job upTo = s :=
  if_neg h

/-- R101: with no entry of an earlier advert still to be applied the next one is taken. -/
theorem RouteEngine.holdsAdvert_eq_false {e : RouteEngine} (h1 : e.advertJob = none)
    (h2 : ∀ h, e.inHand = some h → h.job ≠ .advert) : e.holdsAdvert = false := by
  unfold RouteEngine.holdsAdvert
  rw [h1]
  cases hh : e.inHand with
  | none => rfl
  | some h => simpa using h2 h hh

/-- ADVERT_HANDOVER (R34, R102): the head ADVERT becomes the waiting advert job, heard now. -/
theorem exec_advertHandover {s : State} {f : InFrame} {rest : List InFrame} {es : List AdvertEntry}
    (hin : s.inbound = f :: rest) (hbody : f.body = .advert es) (hfree : s.routes.holdsAdvert = false) :
    exec .advertHandover s = .next { s with
      inbound := rest
      routes := { s.routes with advertJob := some { source := f.source, entries := es, heard := s.routes.clock } } } := by
  show execAdvertHandover s = _
  simp only [execAdvertHandover, hin, hbody, hfree]
  rfl

/-- R34, R101, R102. -/
theorem routeJobsComeInOrder : Claims.RouteJobsComeInOrder := by
  intro s e read frames
  have hother : ∀ job, s.nextJob ≠ some job → Host.Outcome.next (s.doJob job none) = (.next s : Result) := fun job h =>
    congrArg _ (State.doJob_other h none)
  refine ⟨State.nextJob_read, fun hread => ?_, hother .condition, hother .pins, hother .advert, hother .sweep,
    fun h => congrArg _ (if_neg h),
    fun f rest es hin hbody h1 h2 => exec_advertHandover hin hbody (RouteEngine.holdsAdvert_eq_false h1 h2)⟩
  obtain ⟨hheld, hfirst⟩ := State.nextJob_noRead hread
  refine ⟨hheld, fun hnone => ?_⟩
  rw [hfirst hnone]
  exact e.firstJob_spec

/-! ## A job and its operations (R100 to R102, R108, R111) -/

/-- The state once the job in hand has done its next operations, up to a number of them or all that are left. -/
def State.jobDone (upTo : Option Nat) (h : JobInHand) (e : RouteEngine) (s : State) : State :=
  s.withRoutes ({ e with inHand := some h }.goOn s.settings s.zones.aggClosed upTo)

/-- R101: how the job in hand goes on. -/
theorem RouteEngine.goOn_inHand (st : Settings) (closed : ZoneVec) (upTo : Option Nat) (h : JobInHand) (e : RouteEngine) :
    { e with inHand := some h }.goOn st closed upTo =
      let n := upTo.getD h.left.length
      let o := (h.left.take n).foldl (RouteOut.doOp st closed) { e with inHand := some h }.work
      { o with eng := { o.eng with
          inHand := if h.left.drop n = [] then none else some { job := h.job, left := h.left.drop n } } } := by
  simp only [RouteEngine.goOn, RouteEngine.hold, List.isEmpty_iff]

/-- A job with no operations is done as it is taken into hand, and going on with it would do as little. -/
theorem RouteEngine.goOn_hold (st : Settings) (closed : ZoneVec) (upTo : Option Nat) (h : JobInHand) (e : RouteEngine) :
    (e.hold h.job h.left).goOn st closed upTo = { e with inHand := some h }.goOn st closed upTo := by
  obtain ⟨job, left⟩ := h
  cases left with
  | nil =>
    rw [RouteEngine.goOn_inHand]
    simp only [List.take_nil, List.drop_nil, List.foldl_nil, if_true]
    rfl
  | cons x l => rfl

/-- R101: the job in hand goes on. -/
theorem State.doJob_held {s : State} {h : JobInHand} (hh : s.routes.inHand = some h) (hnext : s.nextJob = some h.job)
    (upTo : Option Nat) : s.doJob h.job upTo = s.jobDone upTo h s.routes := by
  have hself : { s.routes with inHand := some h } = s.routes := by rw [← hh]
  rw [State.doJob, if_pos hnext, RouteEngine.doJob, if_pos (by rw [hh]; rfl), State.jobDone, hself]

/-- R101: a waiting job is taken into hand, and goes on. -/
theorem State.doJob_taken {s : State} {h : JobInHand} {e : RouteEngine} (hnone : s.routes.inHand = none)
    (hnext : s.nextJob = some h.job) (htake : s.routes.takeJob s.settings s.zones.aggClosed h.job = e.hold h.job h.left)
    (upTo : Option Nat) : s.doJob h.job upTo = s.jobDone upTo h e := by
  rw [State.doJob, if_pos hnext, RouteEngine.doJob, if_neg (by simp [hnone]), htake, RouteEngine.goOn_hold, State.jobDone]

/-- R111: a condition recomputation taken into hand. -/
theorem RouteEngine.takeJob_condition (st : Settings) (closed : ZoneVec) (e : RouteEngine) :
    e.takeJob st closed .condition = RouteEngine.hold .condition
      (e.entries.map fun x => .recompute x.room (decide (closed.getLsbD st.zone ≠ e.kept.getLsbD st.zone)))
      { e with kept := closed, conditionJob := false } := by
  have hown : (zoneSet closed st.zone != zoneSet e.kept st.zone) =
      decide (closed.getLsbD st.zone ≠ e.kept.getLsbD st.zone) := by
    rw [Bool.eq_iff_iff, bne_iff_ne, decide_eq_true_iff]
    rfl
  rw [RouteEngine.takeJob, RouteEngine.conditionOps, RouteEngine.rooms, List.map_map, hown]
  rfl

/-- R100: the rooms that are pinned. -/
theorem pinnedRoom_eq (st : Settings) (pins : List Nat) (room : Nat) : pinnedRoom st pins room =
    decide ((st.homeRoom ≠ 0 ∧ room = st.homeRoom) ∨ room ∈ st.directory ∨ room ∈ pins) := by
  rw [Bool.eq_iff_iff, decide_eq_true_iff]
  simp only [pinnedRoom, Settings.isHome, Bool.or_eq_true, Bool.and_eq_true, decide_eq_true_eq, List.contains_iff_mem, or_assoc]

/-- R100: a pin-set update taken into hand. -/
theorem RouteEngine.takeJob_pins {e : RouteEngine} {pins : List Nat} (h : e.pinJob = some pins) (st : Settings)
    (closed : ZoneVec) : e.takeJob st closed .pins = RouteEngine.hold .pins
      (((e.entries.filter fun x => decide (x.pinned ≠
          decide ((st.homeRoom ≠ 0 ∧ x.room = st.homeRoom) ∨ x.room ∈ st.directory ∨ x.room ∈ pins))).map fun x => .repin x.room)
        ++ (pins.filter fun r => decide (r ∉ e.pinSet)).map .create)
      { e with pinSet := pins, pinJob := none } := by
  have hflag : (fun x : RouteEntry => x.pinned != pinnedRoom st pins x.room) = fun x => decide (x.pinned ≠
      decide ((st.homeRoom ≠ 0 ∧ x.room = st.homeRoom) ∨ x.room ∈ st.directory ∨ x.room ∈ pins)) := funext fun x => by
    rw [← pinnedRoom_eq, Bool.eq_iff_iff, bne_iff_ne, decide_eq_true_iff]
  have hjoin : (fun r => !e.pinSet.contains r) = fun r => decide (r ∉ e.pinSet) := funext fun r => by
    simp
  rw [← hflag, ← hjoin]
  simp only [RouteEngine.takeJob, h]
  rfl

/-- R102: an advert job taken into hand. -/
theorem RouteEngine.takeJob_advert {e : RouteEngine} {j : AdvertJob} (h : e.advertJob = some j) (st : Settings)
    (closed : ZoneVec) : e.takeJob st closed .advert =
      RouteEngine.hold .advert (j.entries.map fun a => .apply j.source j.heard a) { e with advertJob := none } := by
  simp only [RouteEngine.takeJob, h]
  rfl

/-- R100, R108: a sweep taken into hand. -/
theorem RouteEngine.takeJob_sweep (st : Settings) (closed : ZoneVec) (e : RouteEngine) :
    e.takeJob st closed .sweep =
      RouteEngine.hold .sweep ((e.entries.map fun x => .age x.room e.clock) ++ e.pinSet.map .create)
        { e with sweepJob := false } := by
  rw [RouteEngine.takeJob, RouteEngine.sweepOps, RouteEngine.rooms, List.map_map]
  rfl

/-- R100 to R102, R108, R111. -/
theorem routeJobsRunTheirOperations : Claims.RouteJobsRunTheirOperations := by
  intro s st closed e after goes pinned
  have hafter : ∀ upTo h e, s.jobDone upTo h e = after upTo h e := fun upTo h e => by
    rw [State.jobDone, RouteEngine.goOn_inHand]
    rfl
  have hgoes : ∀ c h e, exec c s = .next (s.doJob h.job none) → (∀ upTo, s.doJob h.job upTo = s.jobDone upTo h e) →
      goes c h e := fun c h e hexec hdone =>
    ⟨by rw [hexec, hdone, hafter], by rw [hdone, hafter]⟩
  refine ⟨fun h c hh hnext hc => hgoes c h e ?_ (State.doJob_held hh hnext),
    fun hnone => ⟨fun hnext => ?_, fun pins hp hnext => ?_, fun j hj hnext => ?_, fun hnext => ?_⟩⟩
  · rcases hc with ⟨hj, rfl⟩ | ⟨hj, rfl⟩ | ⟨hj, rfl⟩ | ⟨hj, rfl⟩ <;> rw [hj] <;> rfl
  · exact hgoes _ _ _ rfl (State.doJob_taken hnone hnext (e.takeJob_condition st closed))
  · exact hgoes _ _ _ rfl (State.doJob_taken hnone hnext (RouteEngine.takeJob_pins hp st closed))
  · exact hgoes _ _ _ rfl (State.doJob_taken hnone hnext (RouteEngine.takeJob_advert hj st closed))
  · exact hgoes _ _ _ rfl (State.doJob_taken hnone hnext (e.takeJob_sweep st closed))

/-- Settles O41. -/
theorem routeJobsAreDoneWhole : Obligations.RouteJobsAreDoneWhole :=
  ⟨routeJobsComeInOrder, routeJobsRunTheirOperations⟩

end Sys2Proof.Machine
end

section
/-! PROOFS. Moving the counter, and who is told of an event of the Time Unit (O24). -/

namespace Sys2Proof.Machine

/-! ## Adjustments (R39, R43) -/

/-- R39: the reading of a moved counter, in ms from day 0, 00:00. -/
theorem TimeUnit.shift_reading (d : Int) (t : TimeUnit) : (((t.shift d).day * 86400000 + (t.shift d).ms : Nat) : Int) =
    (((t.day * 86400000 + t.ms : Nat) : Int) + d) % (256 * 86400000) := by
  simp only [TimeUnit.shift, dayMs, wrapMs]
  omega

/-- R39: a move by 0 ms is none. -/
theorem TimeUnit.shift_zero {t : TimeUnit} (hd : t.day < 256) (hm : t.ms < 86400000) : t.shift 0 = t := by
  have hday : (t.shift 0).day = t.day := by
    simp only [TimeUnit.shift, dayMs, wrapMs]
    omega
  have hms : (t.shift 0).ms = t.ms := by
    simp only [TimeUnit.shift, dayMs, wrapMs]
    omega
  calc t.shift 0 = { t with day := (t.shift 0).day, ms := (t.shift 0).ms } := rfl
    _ = t := by rw [hday, hms]

/-- R39. -/
theorem shiftMovesTheCounter : Claims.ShiftMovesTheCounter := by
  intro t d hd hm
  obtain ⟨hday, hms, hfrac⟩ := t.shift_range d
  refine ⟨hday, hms, hfrac, TimeUnit.shift_zero hd hm, ?_⟩
  rw [TimeUnit.shift_reading]
  exact Int.mod_modEq _ _

/-! ## Events of the Time Unit (R38 to R40) -/

/-- An event that keeps the minute tells the Composer alone. -/
theorem State.timeEvent_sameMinute {o : TimeOut} {s : State} (h : o.time.minute = s.time.minute) :
    s.timeEvent o = { s with
      time := o.time
      composer := s.composer.onTime (decide (o.time.stamp ≠ s.time.stamp)) false o.told { s with time := o.time }.passNow
      port := s.port.raiseIf o.step .timeStep } := by
  simp [State.timeEvent, h]

/-- An event that moves the minute gives a minute event, after that of a crossing which came before. -/
theorem State.timeEvent_newMinute {o : TimeOut} {s : State} (h : o.time.minute ≠ s.time.minute) :
    s.timeEvent o = { s with
      time := o.time.giveMinute
      sessions := s.giveCrossing.sessions.minuteEvent o.time.known o.time.day o.time.minute
      composer := s.giveCrossing.composer.onTime (decide (o.time.stamp ≠ s.time.stamp)) true o.told
        { s with time := o.time }.passNow
      port := s.port.raiseIf o.step .timeStep } := by
  simp only [State.timeEvent, h, State.giveCrossing, ne_eq, not_false_eq_true, decide_true, if_true]
  cases s.time.crossed <;> rfl

/-- R40, R178: an event raises TIME_STEP or leaves the Local Port alone. -/
theorem State.timeEvent_port (o : TimeOut) (s : State) : (s.timeEvent o).port = s.port.raiseIf o.step .timeStep := by
  by_cases h : o.time.minute = s.time.minute
  · rw [State.timeEvent_sameMinute h]
  · rw [State.timeEvent_newMinute h]

/-- An event that leaves the reading as it is, without step or report, changes the Time Unit alone. -/
theorem State.timeEvent_untold {t : TimeUnit} {s : State} (h : t.stamp = s.time.stamp) :
    s.timeEvent { time := t, step := false, told := false } = { s with time := t } := by
  have hms : t.ms = s.time.ms := congrArg Stamp.ms h
  rw [State.timeEvent_sameMinute (congrArg (· / 60000) hms)]
  simp [h, Composer.onTime, Composer.reachIf, Composer.invalidateIf, LocalPort.raiseIf]

/-- What a reading is: day and ms of day. -/
theorem TimeUnit.stamp_ne_iff (t u : TimeUnit) : t.stamp ≠ u.stamp ↔ t.day ≠ u.day ∨ t.ms ≠ u.ms := by
  rw [ne_eq, TimeUnit.stamp, TimeUnit.stamp, Stamp.mk.injEq, not_and_or]

/-- R38: a boundary crossed, with its minute event not yet given. -/
theorem TimeUnit.crossed_eq (t : TimeUnit) : t.crossed = decide (t.sync ≠ .free ∧ t.ms / 60000 ≠ t.minuteGiven) :=
  (Bool.decide_and _ _).symm

/-- R38, R72: the Session Table after the minute event of a crossing. -/
theorem State.giveCrossing_sessions (s : State) : s.giveCrossing.sessions =
    if s.time.crossed then s.sessions.minuteEvent s.time.known s.time.day s.time.minute else s.sessions :=
  apply_ite State.sessions _ _ _

/-- R38, R144: the Composer after the minute event of a crossing. -/
theorem State.giveCrossing_composer (s : State) : s.giveCrossing.composer =
    if s.time.crossed then s.composer.invalidateIf (s.composer.hitByMinute s.time.stamp) s.passNow else s.composer :=
  apply_ite State.composer _ _ _

/-- R38 to R40. -/
theorem timeEventTellsItsListeners : Claims.TimeEventTellsItsListeners := by
  intro s t step told u moved
  have hmoved : moved = decide (t.stamp ≠ s.time.stamp) := by simp only [moved, TimeUnit.stamp_ne_iff]
  refine ⟨State.timeEvent_frame _ s, State.timeEvent_port _ s, fun hsame => ?_, fun hnew => ?_⟩
  · have hu : u = _ := State.timeEvent_sameMinute (o := ⟨t, step, told⟩) hsame
    rw [hu, hmoved]
    exact ⟨rfl, rfl, rfl⟩
  · have hu : u = _ := State.timeEvent_newMinute (o := ⟨t, step, told⟩) hnew
    rw [hu, hmoved, ← TimeUnit.crossed_eq, State.giveCrossing_sessions, State.giveCrossing_composer]
    exact ⟨rfl, rfl, rfl⟩

/-- Settles O24. -/
theorem timeEventsMoveAndTell : Obligations.TimeEventsMoveAndTell :=
  ⟨shiftMovesTheCounter, timeEventTellsItsListeners⟩

end Sys2Proof.Machine
end

section
/-! PROOFS. The deviation of a beacon (O26), and the trimmed midpoint of a round (O25). -/

namespace Sys2Proof.Machine

/-! ## The deviation (R46) -/

/-- R46: the signed day difference lies in −128..127, and is that of the days modulo 256. -/
theorem dayDiff_spec {a b : Nat} (ha : a < 256) (hb : b < 256) :
    -128 ≤ dayDiff a b ∧ dayDiff a b ≤ 127 ∧ dayDiff a b ≡ (a : Int) - (b : Int) [ZMOD 256] := by
  simp only [dayDiff, dayAhead, Int.ModEq]
  omega

/-- Settles O26: the day difference is `dayDiff`. -/
theorem deviationFollowsTheRule : Obligations.DeviationFollowsTheRule := by
  intro x y hx hy
  obtain ⟨hlow, hhigh, hmod⟩ := dayDiff_spec hx hy
  exact ⟨dayDiff x.day y.day, hlow, hhigh, hmod, rfl⟩

/-! ## The trimmed midpoint (R49) -/

/-- R49: two ascending lists of the same samples are one list. -/
theorem sortInts_eq {ds sorted : List Int} (hperm : sorted.Perm ds) (hsorted : sorted.Pairwise (· ≤ ·)) :
    sortInts ds = sorted := by
  have hasc : (sortInts ds).Pairwise (· ≤ ·) := sortBy_pairwise (· ≤ ·) (fun _ _ _ => Int.le_trans)
    (fun _ _ h => of_decide_eq_true h) (fun _ _ h => le_of_not_ge (of_decide_eq_false h)) ds
  exact ((sortBy_perm _ ds).trans hperm.symm).eq_of_pairwise (fun _ _ _ _ => le_antisymm) hasc hsorted

/-- Of a list less its first `k` and last `k` elements the first and the last, by their places in the whole list. -/
theorem ends_of_middle {l : List Int} {k : Nat} (h : 2 * k < l.length) :
    ((l.drop k).take (l.length - 2 * k)).headD 0 = l.getD k 0 ∧
      ((l.drop k).take (l.length - 2 * k)).getLastD 0 = l.getD (l.length - 1 - k) 0 := by
  have hlast : k + (l.length - 2 * k - 1) = l.length - 1 - k := by omega
  constructor
  · rw [List.headD_eq_head?_getD, List.head?_take, if_neg (by omega), List.head?_drop, List.getD_eq_getElem?_getD]
  · rw [List.getLastD_eq_getLast?, List.getLast?_take, if_neg (by omega), List.getElem?_drop, hlast,
      List.getD_eq_getElem?_getD, List.getElem?_eq_getElem (by omega)]
    rfl

/-- R49: the trim depth leaves a sample. -/
theorem two_mul_trimDepth_lt {n : Nat} (h : 1 ≤ n) : 2 * trimDepth n < n := by
  simp only [trimDepth]
  split
  · omega
  · split <;> omega

/-- Settles O25. -/
theorem trimmedMidpointFollowsTheRule : Obligations.TrimmedMidpointFollowsTheRule := by
  intro ds sorted hpos _ hperm hsorted n k
  have hlen : sorted.length = ds.length := hperm.length_eq
  have hmiddle : trimmed ds = (sorted.drop k).take (sorted.length - 2 * k) := by
    rw [hlen, ← sortInts_eq hperm hsorted]
    rfl
  obtain ⟨hhead, hlast⟩ := ends_of_middle (l := sorted) (k := k) (hlen ▸ two_mul_trimDepth_lt hpos)
  rw [trimmedMidpoint, hmiddle, hhead, hlast, hlen]

end Sys2Proof.Machine
end

section
/-! PROOFS. Adjustments and reports of the Time Unit's events, and beacons handed over (O22). -/

namespace Sys2Proof.Machine

/-! ## Adjustments and reports -/

/-- R39, R43: an adjustment of a counter in its range, where 0 ms counts no waiting beacon. -/
theorem TimeUnit.adjust_eq {t : TimeUnit} (h : ClockOk t) (d : Int) (waiting : Nat) :
    t.adjust d waiting = { t.shift d with stale := if d = 0 then t.stale else t.stale + waiting } := by
  rcases t.adjust_cases d waiting with ⟨rfl, hadj⟩ | ⟨hne, hadj⟩
  · rw [hadj, if_pos rfl, TimeUnit.shift_zero h.day h.ms]
  · rw [hadj, if_neg hne]

/-- R40: without a step and in one epoch a change of sync state is told. -/
theorem TimeOut.ofChange_sync {old new : TimeUnit} {p : Prop} [Decidable p] (hepoch : new.epoch = old.epoch)
    (hsync : new.sync ≠ old.sync ↔ p) :
    TimeOut.ofChange old new false = { time := new, step := false, told := decide p } := by
  simp [TimeOut.ofChange, hepoch, ← hsync]

/-! ## BEACON_HANDOVER -/

/-- R34: the beacon at the head of the Inbound Queue leaves it and is handled. -/
theorem exec_beaconHandover {s : State} {f : InFrame} {rest : List InFrame} {epoch day ms : Nat} {c : Bool} {at_ : Stamp}
    (hin : s.inbound = f :: rest) (hbody : f.body = .beacon epoch day ms c) (hat : f.arrival = some at_) :
    exec .beaconHandover s = .next ({ s with inbound := rest }.timeEvent
      (s.time.hearBeacon f.source epoch { day := day, ms := ms } at_ (beaconCount rest))) := by
  show execBeaconHandover s = _
  simp only [execBeaconHandover, hin, hbody, hat, Option.getD_some]

/-- R44: what a newer epoch is. -/
theorem epochNewer_iff (b a : Nat) : epochNewer b a = true ↔ 1 ≤ epochAhead b a ∧ epochAhead b a ≤ 127 := by
  simp [epochNewer]

/-- R44: an epoch is not ahead of itself. -/
theorem epochAhead_self (a : Nat) : epochAhead a a = 0 := by
  unfold epochAhead
  omega

section
variable {t : TimeUnit} {source b waiting : Nat} {x arrival : Stamp}

/-- R43: a stale beacon is dropped. -/
theorem TimeUnit.hearBeacon_stale (h : 0 < t.stale) : t.hearBeacon source b x arrival waiting =
    { time := { t with stale := t.stale - 1 }, step := false, told := false } := if_pos h

/-- R40, R44: the first beacon is joined, which is told. -/
theorem TimeUnit.hearBeacon_free (hstale : t.stale = 0) (hsync : t.sync = .free) :
    t.hearBeacon source b x arrival waiting =
      { time := t.join source b (deviation x arrival) waiting, step := false, told := true } := by
  rw [TimeUnit.hearBeacon, if_neg (by omega), if_pos hsync]
  simp [TimeOut.ofChange, TimeUnit.join, hsync]

/-- R40, R44: out of FREE a newer epoch is adopted, a step which is told. -/
theorem TimeUnit.hearBeacon_newer (hstale : t.stale = 0) (hsync : t.sync ≠ .free) (h1 : 1 ≤ epochAhead b t.epoch)
    (h127 : epochAhead b t.epoch ≤ 127) : t.hearBeacon source b x arrival waiting =
      { time := t.adopt b (deviation x arrival) waiting, step := true, told := true } := by
  rw [TimeUnit.hearBeacon, if_neg (by omega), if_neg hsync, if_pos ((epochNewer_iff _ _).2 ⟨h1, h127⟩)]
  rfl

/-- R44: out of FREE a beacon of the own epoch is sampled. -/
theorem TimeUnit.hearBeacon_own (hstale : t.stale = 0) (hsync : t.sync ≠ .free) (hown : b = t.epoch) :
    t.hearBeacon source b x arrival waiting =
      { time := { t with devs := enterSample source (deviation x arrival) t.devs }, step := false, told := false } := by
  have hnew : ¬epochNewer b t.epoch = true := by rw [epochNewer_iff, hown, epochAhead_self]; omega
  rw [TimeUnit.hearBeacon, if_neg (by omega), if_neg hsync, if_neg hnew, if_pos hown]

/-- R44: out of FREE a beacon of an older epoch is ignored. -/
theorem TimeUnit.hearBeacon_older (hstale : t.stale = 0) (hsync : t.sync ≠ .free) (hold : 128 ≤ epochAhead b t.epoch) :
    t.hearBeacon source b x arrival waiting = { time := t, step := false, told := false } := by
  have hnew : ¬epochNewer b t.epoch = true := by rw [epochNewer_iff]; omega
  have hown : b ≠ t.epoch := by
    rintro rfl
    rw [epochAhead_self] at hold
    omega
  rw [TimeUnit.hearBeacon, if_neg (by omega), if_neg hsync, if_neg hnew, if_neg hown]

end

/-! ## The deviation list (R47) -/

section
variable {source : Nat} {d : Int}

/-- R47: a new sample takes the place of its source's earlier one. -/
theorem enterSample_held {older newer : List (Nat × Int)} {x : Int} (h : ∀ p ∈ older ++ newer, p.1 ≠ source) :
    enterSample source d (older ++ (source, x) :: newer) = older ++ (source, d) :: newer := by
  have hsame : ∀ l : List (Nat × Int), (∀ p ∈ l, p.1 ≠ source) →
      l.map (fun p => if p.1 = source then (source, d) else p) = l := fun l hl =>
    (List.map_congr_left fun p hp => if_neg (hl p hp)).trans l.map_id'
  rw [List.forall_mem_append] at h
  simp [enterSample, hsame older h.1, hsame newer h.2]

/-- R47: no sample of the source is held. -/
theorem any_source_eq_false {devs : List (Nat × Int)} (h : ∀ p ∈ devs, p.1 ≠ source) :
    ¬(devs.any fun p => decide (p.1 = source)) = true := by
  rw [List.any_eq_true]
  rintro ⟨p, hp, hsource⟩
  exact h p hp (of_decide_eq_true hsource)

/-- R47: a new source's sample joins the list while it holds fewer than 15. -/
theorem enterSample_new {devs : List (Nat × Int)} (h : ∀ p ∈ devs, p.1 ≠ source) (hroom : devs.length < 15) :
    enterSample source d devs = devs ++ [(source, d)] := by
  rw [enterSample, if_neg (any_source_eq_false h), if_pos hroom]

/-- R47: a full list takes no new source's sample. -/
theorem enterSample_full {devs : List (Nat × Int)} (h : ∀ p ∈ devs, p.1 ≠ source) (hfull : 15 ≤ devs.length) :
    enterSample source d devs = devs := by
  rw [enterSample, if_neg (any_source_eq_false h), if_neg (by omega)]

end

/-- R34, R43, R44, R47. -/
theorem beaconIsDroppedIgnoredOrSampled : Claims.BeaconIsDroppedIgnoredOrSampled := by
  intro s f rest epoch day ms c at_ hin hbody hat after d
  have hafter : ∀ t : TimeUnit, t.stamp = s.time.stamp →
      s.time.hearBeacon f.source epoch { day := day, ms := ms } at_ (beaconCount rest) = ⟨t, false, false⟩ →
      exec .beaconHandover s = .next (after t) := fun t ht hhear => by
    rw [exec_beaconHandover hin hbody hat, hhear, State.timeEvent_untold (s := { s with inbound := rest }) ht]
  refine ⟨fun hstale => hafter _ rfl (TimeUnit.hearBeacon_stale hstale), fun hstale hsync =>
    ⟨fun hold => hafter _ rfl (TimeUnit.hearBeacon_older hstale hsync hold), fun hown => ?_⟩⟩
  have hsample : ∀ devs, enterSample f.source d s.time.devs = devs →
      exec .beaconHandover s = .next (after { s.time with devs := devs }) := fun devs hdevs =>
    hafter _ rfl (hdevs ▸ TimeUnit.hearBeacon_own hstale hsync hown)
  exact ⟨fun older x newer hdevs hother => hsample _ (hdevs ▸ enterSample_held hother),
    fun hother hroom => hsample _ (enterSample_new hother hroom),
    fun hother hfull => hsample _ (enterSample_full hother hfull)⟩

/-- R43 to R45. -/
theorem beaconJoinsOrIsAdopted : Claims.BeaconJoinsOrIsAdopted := by
  intro s f rest epoch day ms c at_ hin hbody hat hstale hclock d waiting t
  refine ⟨fun hfree hdevs => ?_, fun hsync h1 h127 => ?_⟩
  · rw [exec_beaconHandover hin hbody hat, TimeUnit.hearBeacon_free hstale hfree, TimeUnit.join, hdevs, hstale,
      Nat.zero_add]
    rfl
  · rw [exec_beaconHandover hin hbody hat, TimeUnit.hearBeacon_newer hstale hsync h1 h127, TimeUnit.adopt,
      TimeUnit.adjust_eq hclock, hstale, Nat.zero_add]
    rfl

/-- Settles O22. -/
theorem beaconsAreHandedOver : Obligations.BeaconsAreHandedOver :=
  ⟨beaconIsDroppedIgnoredOrSampled, beaconJoinsOrIsAdopted⟩

end Sys2Proof.Machine
end

section
/-! PROOFS. The end of a round (O23), and SET TIME (O28). -/

namespace Sys2Proof.Machine

/-! ## ROUND_END -/

/-- R48: a round that has run for 8 s ends now. -/
theorem exec_roundEnd {s : State} {r : Nat} (h : s.time.roundTimer = some r) (hr : 8000000 ≤ r) :
    exec .roundEnd s = .next (s.timeEvent (s.time.endRound (beaconCount s.inbound))) := by
  have hwait : timerWait roundLimit s.time.roundTimer = some 0 := by
    rw [h]
    exact congrArg some (Nat.sub_eq_zero_of_le hr)
  show execRoundEnd s = _
  rw [execRoundEnd, hwait, State.after_due]

/-- R52: a clamped value, by cases. -/
theorem clampTo_eq {b : Int} (hb : 0 ≤ b) (x : Int) : clampTo b x = if x < -b then -b else if b < x then b else x := by
  unfold clampTo
  split
  · omega
  · split <;> omega

/-- R51: what a missed round leaves; the third takes LOCKED to COASTING. -/
theorem TimeUnit.endMissed_eq (t : TimeUnit) : t.endMissed = { t with
    missed := min (t.missed + 1) 3, outBand := 0
    sync := if t.sync = .locked ∧ 2 ≤ t.missed then .coasting else t.sync } := by
  have hthird : (if t.sync = .locked ∧ 3 ≤ t.missed + 1 then Sync.coasting else t.sync) =
      if t.sync = .locked ∧ 2 ≤ t.missed then .coasting else t.sync :=
    if_congr (and_congr_right fun _ => by omega) rfl rfl
  rw [TimeUnit.endMissed, hthird]

/-- R51: a missed round changes the sync state where it takes the station to COASTING. -/
theorem TimeUnit.endMissed_sync_ne_iff (t : TimeUnit) :
    t.endMissed.sync ≠ t.sync ↔ t.sync = .locked ∧ 2 ≤ t.missed := by
  rw [TimeUnit.endMissed_eq]
  by_cases h : t.sync = .locked ∧ 2 ≤ t.missed <;> simp [h]

section
variable {t : TimeUnit} {m : Int} {waiting : Nat}

/-- R50: the first round steps the counter by its midpoint. -/
theorem TimeUnit.endRound_joining (hm : trimmedMidpoint (t.devs.map (·.2)) = m) (h : t.sync = .joining) :
    t.endRound waiting = { time := (t.endJoining m waiting).newRound, step := true, told := true } := by
  rw [TimeUnit.endRound, if_pos h, hm]
  rfl

/-- R51: a round without samples is missed. -/
theorem TimeUnit.endRound_missed (hj : t.sync ≠ .joining) (h : t.devs = []) : t.endRound waiting =
    { time := t.endMissed.newRound, step := false, told := decide (t.sync = .locked ∧ 2 ≤ t.missed) } := by
  rw [TimeUnit.endRound, if_neg hj, if_pos h]
  exact TimeOut.ofChange_sync rfl t.endMissed_sync_ne_iff

/-- R52: a midpoint within 2,000 ms is in band; a round in band that leaves COASTING is told. -/
theorem TimeUnit.endRound_inBand (hm : trimmedMidpoint (t.devs.map (·.2)) = m) (hj : t.sync ≠ .joining) (hd : t.devs ≠ [])
    (h : m.natAbs ≤ 2000) : t.endRound waiting =
      { time := (t.endInBand m waiting).newRound, step := false, told := decide (t.sync ≠ .locked) } := by
  have hepoch : (t.endInBand m waiting).epoch = t.epoch := apply_ite TimeUnit.epoch _ _ _ |>.trans (ite_self _)
  rw [TimeUnit.endRound, if_neg hj, if_neg hd, hm, if_pos h]
  exact TimeOut.ofChange_sync hepoch ne_comm

/-- R53: the first two rounds out of band in a row only count. -/
theorem TimeUnit.endRound_outOfBand (hm : trimmedMidpoint (t.devs.map (·.2)) = m) (hj : t.sync ≠ .joining)
    (hd : t.devs ≠ []) (h : 2000 < m.natAbs) (hc : t.outBand < 2) :
    t.endRound waiting = { time := t.endOutOfBand.newRound, step := false, told := false } := by
  rw [TimeUnit.endRound, if_neg hj, if_neg hd, hm, if_neg (by omega), if_pos (by omega)]
  exact TimeOut.ofChange_sync (p := False) rfl (iff_false_intro (not_not_intro rfl))

/-- R53: the third round out of band in a row steps the counter by its midpoint. -/
theorem TimeUnit.endRound_outStep (hm : trimmedMidpoint (t.devs.map (·.2)) = m) (hj : t.sync ≠ .joining)
    (hd : t.devs ≠ []) (h : 2000 < m.natAbs) (hc : 2 ≤ t.outBand) : t.endRound waiting =
      { time := (t.endOutStep m waiting).newRound, step := true, told := true } := by
  rw [TimeUnit.endRound, if_neg hj, if_neg hd, hm, if_neg (by omega), if_neg (by omega)]
  rfl

end

/-- Settles O23: one case for each way a round ends. -/
theorem roundEndJudgesTheMidpoint : Obligations.RoundEndJudgesTheMidpoint := by
  intro s r htimer hr hclock t m waiting stale clamp
  have hclamp : ∀ {b : Int}, 0 ≤ b → ∀ x, clampTo b x = clamp b x := clampTo_eq
  rw [exec_roundEnd htimer hr]
  refine ⟨fun hj => ?_, fun hj hd => ?_, fun hj hd hlow hhigh => ?_, fun hj hd hout hc => ?_, fun hj hd hout hc => ?_⟩
  · rw [TimeUnit.endRound_joining (m := m) rfl hj, TimeUnit.endJoining, TimeUnit.adjust_eq hclock]
    rfl
  · rw [TimeUnit.endRound_missed hj hd, TimeUnit.endMissed_eq]
    rfl
  · rw [TimeUnit.endRound_inBand (m := m) rfl hj hd (by omega), TimeUnit.endInBand, TimeUnit.adjust_eq hclock, rateStep,
      hclamp (by decide), hclamp (by decide), hclamp (by decide)]
    rfl
  · rw [TimeUnit.endRound_outOfBand (m := m) rfl hj hd (by omega) hc]
    rfl
  · rw [TimeUnit.endRound_outStep (m := m) rfl hj hd (by omega) hc, TimeUnit.endOutStep, TimeUnit.adjust_eq hclock]
    rfl

/-! ## SET_TIME -/

/-- R174, R175: SET TIME taken in RUN with a body of 5 bytes or more. -/
theorem exec_setTime {s : State} (h : PortReady .run s) (d m3 m2 m1 m0 : Byte) (extra : List Byte) :
    exec (.setTime (d :: m3 :: m2 :: m1 :: m0 :: extra)) s = .next
      (if val32 m3 m2 m1 m0 ≤ 86399999 then s.setTime d.toNat (val32 m3 m2 m1 m0) else s.answer .malformed 0x09 []) := by
  show execSetTime _ s = _
  rw [execSetTime, State.request_carried h.enabled h.free (by simp [h.mode]) (by simp) (by simp [h.mode, inRun])]

/-- Settles O28. -/
theorem setTimeSetsTheCounter : Obligations.SetTimeSetsTheCounter := by
  intro s d m3 m2 m1 m0 extra hready ms
  rw [exec_setTime hready]
  refine ⟨fun hlate => ?_, fun hin => ?_⟩
  · rw [if_neg (show ¬val32 m3 m2 m1 m0 ≤ 86399999 from Nat.not_le.2 hlate)]
    rfl
  · rw [if_pos (show val32 m3 m2 m1 m0 ≤ 86399999 from hin), State.setTime]
    rfl

end Sys2Proof.Machine
end

section
/-! PROOFS. What each operation of the Session Table makes of a sound table: it stays sound (O35). -/

namespace Sys2Proof.Machine

/-! ## Entries, marks and requests -/

/-- Passes, posting buffer and clock make no difference to a sound table. -/
theorem TableOk.congr {tb tb' : SessionTable} (h : TableOk tb) (he : tb'.entries = tb.entries) (hc : tb'.changed = tb.changed)
    (hr : tb'.refreshReqs = tb.refreshReqs) : TableOk tb' := by
  obtain ⟨h1, h2, h3, h4, h5, h6, h7⟩ := h
  rw [← he] at h1 h2 h3 h4 h6 h7
  rw [← hc] at h5 h6
  rw [← hr] at h7
  exact ⟨h1, h2, h3, h4, h5, h6, h7⟩

/-- Marks cleared and requests dropped leave a table sound (R74, R81). -/
theorem TableOk.fewer {tb : SessionTable} (h : TableOk tb) {marks : List Nat} {reqs : List (Nat × Nat)}
    (hm : marks.Sublist tb.changed) (hr : reqs.Sublist tb.refreshReqs) :
    TableOk { tb with changed := marks, refreshReqs := reqs } where
  slots := h.slots
  slotsOnce := h.slotsOnce
  keysOnce := h.keysOnce
  arrivalOrder := h.arrivalOrder
  marksOnce := h.marksOnce.sublist hm
  marksHeld i hi := h.marksHeld i (hm.subset hi)
  requestsHeld q hq := h.requestsHeld q (hr.subset hq)

/-- R69, R72, R74, R81: an entry goes with its mark and its request. -/
theorem TableOk.remove {tb : SessionTable} (h : TableOk tb) (slot : Nat) : TableOk (tb.remove slot) := by
  have hsub : (tb.remove slot).entries.Sublist tb.entries := List.filter_sublist
  have held {i : Nat} (hi : decide (i ≠ slot) = true) :
      (∃ e ∈ tb.entries, e.slot = i) → ∃ e ∈ (tb.remove slot).entries, e.slot = i :=
    fun ⟨e, he, hes⟩ => ⟨e, List.mem_filter.2 ⟨he, hes ▸ hi⟩, hes⟩
  refine ⟨fun e he => h.slots e (hsub.subset he), h.slotsOnce.sublist (hsub.map _), h.keysOnce.sublist (hsub.map _),
    h.arrivalOrder.sublist (hsub.map _), h.marksOnce.filter _, fun i hi => ?_, fun q hq => ?_⟩
  · obtain ⟨hmem, hne⟩ := List.mem_filter.1 hi
    exact held hne (h.marksHeld i hmem)
  · obtain ⟨hmem, hne⟩ := List.mem_filter.1 hq
    exact held hne (h.requestsHeld q hmem)

/-- R81: a mark set is a mark that was set, or the new one. -/
theorem mem_markChanged {slot i : Nat} {order : List Nat} : i ∈ markChanged slot order ↔ i ∈ order ∨ i = slot := by
  unfold markChanged
  split
  · next hmem => exact ⟨.inl, fun hi => hi.elim id fun he => he ▸ List.contains_iff_mem.1 hmem⟩
  · simp

/-- R81: no mark is set twice. -/
theorem markChanged_nodup {slot : Nat} {order : List Nat} (h : order.Nodup) : (markChanged slot order).Nodup := by
  unfold markChanged
  split
  · exact h
  · next hnot =>
    rw [List.contains_iff_mem] at hnot
    exact List.nodup_append.2 ⟨h, by simp, fun a ha b hb hab => hnot (List.mem_singleton.1 hb ▸ hab ▸ ha)⟩

/-- R61, R64, R65, R81: an entry placed last, arrived after all others and of a key that no entry of another slot has. -/
theorem TableOk.place {tb : SessionTable} (h : TableOk tb) {e : SessionEntry} (hslot : e.slot < 64)
    (hkey : ∀ x ∈ tb.entries, x.slot ≠ e.slot → x.record.key ≠ e.record.key)
    (hlast : ∀ x ∈ tb.entries, x.arrival < e.arrival) :
    TableOk (tb.place e) := by
  have hsub : (tb.entries.filter fun x => decide (x.slot ≠ e.slot)).Sublist tb.entries := List.filter_sublist
  have hother {x : SessionEntry} (hx : x ∈ tb.entries.filter fun x => decide (x.slot ≠ e.slot)) :
      x ∈ tb.entries ∧ x.slot ≠ e.slot := (List.mem_filter.1 hx).imp_right of_decide_eq_true
  have held {i : Nat} (hi : ∃ x ∈ tb.entries, x.slot = i) : ∃ x ∈ (tb.place e).entries, x.slot = i := by
    obtain ⟨x, hx, rfl⟩ := hi
    by_cases hs : x.slot = e.slot
    · exact ⟨e, List.mem_append_right _ (List.mem_singleton.2 rfl), hs.symm⟩
    · exact ⟨x, List.mem_append_left _ (List.mem_filter.2 ⟨hx, decide_eq_true hs⟩), rfl⟩
  have once {β : Type} {f : SessionEntry → β} (hf : (tb.entries.map f).Nodup)
      (hne : ∀ x ∈ tb.entries, x.slot ≠ e.slot → f x ≠ f e) : ((tb.place e).entries.map f).Nodup := by
    rw [SessionTable.place, List.map_append, List.map_singleton]
    refine List.nodup_append.2 ⟨hf.sublist (hsub.map _), by simp, fun a ha b hb => ?_⟩
    obtain ⟨x, hx, rfl⟩ := List.mem_map.1 ha
    exact List.mem_singleton.1 hb ▸ hne x (hother hx).1 (hother hx).2
  refine ⟨fun x hx => ?_, once h.slotsOnce fun x _ hne => hne, once h.keysOnce hkey, ?_, markChanged_nodup h.marksOnce,
    fun i hi => ?_, fun q hq => held (h.requestsHeld q hq)⟩
  · rcases List.mem_append.1 hx with hx | hx
    · exact h.slots x (hother hx).1
    · exact List.mem_singleton.1 hx ▸ hslot
  · rw [SessionTable.place, List.map_append, List.map_singleton]
    refine List.pairwise_append.2 ⟨h.arrivalOrder.sublist (hsub.map _), by simp, fun a ha b hb => ?_⟩
    obtain ⟨x, hx, rfl⟩ := List.mem_map.1 ha
    exact List.mem_singleton.1 hb ▸ hlast x (hother hx).1
  · rcases mem_markChanged.1 hi with hi | rfl
    · exact held (h.marksHeld i hi)
    · exact ⟨e, List.mem_append_right _ (List.mem_singleton.2 rfl), rfl⟩

/-- A next refresh time touches neither slot, key nor arrival time of an entry (R62, R74). -/
theorem TableOk.setRefresh {tb : SessionTable} (h : TableOk tb) (slot : Nat) (t : Option Nat) :
    TableOk (tb.setRefresh slot t) := by
  have same {β : Type} (f : SessionEntry → β) (hf : ∀ e : SessionEntry, f { e with nextRefresh := t } = f e) :
      (tb.setRefresh slot t).entries.map f = tb.entries.map f := by
    rw [SessionTable.setRefresh, List.map_map]
    refine List.map_congr_left fun e _ => ?_
    show f (if e.slot = slot then { e with nextRefresh := t } else e) = f e
    split
    exacts [hf e, rfl]
  have hslots : (tb.setRefresh slot t).entries.map (·.slot) = tb.entries.map (·.slot) := same (·.slot) fun _ => rfl
  have mem {i : Nat} : (∃ e ∈ (tb.setRefresh slot t).entries, e.slot = i) ↔ ∃ e ∈ tb.entries, e.slot = i := by
    rw [← List.mem_map, ← List.mem_map, hslots]
  refine ⟨fun e he => ?_, hslots ▸ h.slotsOnce, same (·.record.key) (fun _ => rfl) ▸ h.keysOnce,
    same (·.arrival) (fun _ => rfl) ▸ h.arrivalOrder, h.marksOnce, fun i hi => mem.2 (h.marksHeld i hi),
    fun q hq => mem.2 (h.requestsHeld q hq)⟩
  obtain ⟨x, hx, hxs⟩ := mem.1 ⟨e, he, rfl⟩
  exact hxs ▸ h.slots x hx

/-- The entry found in a slot is held there. -/
theorem SessionTable.atSlot_spec {tb : SessionTable} {slot : Nat} {e : SessionEntry} (h : tb.atSlot slot = some e) :
    e ∈ tb.entries ∧ e.slot = slot :=
  ⟨List.mem_of_find?_eq_some h, by simpa using List.find?_some (show tb.entries.find? _ = some e from h)⟩

/-- The entry found for a key holds it. -/
theorem SessionTable.holding_spec {tb : SessionTable} {key : Nat × Nat} {e : SessionEntry} (h : tb.holding key = some e) :
    e ∈ tb.entries ∧ e.record.key = key :=
  ⟨List.mem_of_find?_eq_some h, by simpa using List.find?_some (show tb.entries.find? _ = some e from h)⟩

/-- R63: where no entry is found for a key, none holds it. -/
theorem SessionTable.key_ne_of_holding_none {tb : SessionTable} {key : Nat × Nat} (h : tb.holding key = none) :
    ∀ e ∈ tb.entries, e.record.key ≠ key := fun e he => by
  simpa using List.find?_eq_none.1 h e he

/-- R74: a request is made for a held entry alone. -/
theorem TableOk.requestRefresh {tb : SessionTable} (h : TableOk tb) (slot : Nat) : TableOk (tb.requestRefresh slot) := by
  unfold SessionTable.requestRefresh
  split
  · next due hdue =>
    obtain ⟨e, he, -⟩ := Option.bind_eq_some_iff.1 hdue
    refine ⟨h.slots, h.slotsOnce, h.keysOnce, h.arrivalOrder, h.marksOnce, h.marksHeld, fun q hq => ?_⟩
    rcases List.mem_cons.1 ((insertBy_perm _ _ _).mem_iff.1 hq) with rfl | hq
    · exact ⟨e, SessionTable.atSlot_spec he⟩
    · exact h.requestsHeld q hq
  · exact h

/-- R62, R71: an expired tombstone. -/
theorem TableOk.expire {tb : SessionTable} (h : TableOk tb) (slot : Nat) : TableOk (tb.expire slot) :=
  (h.setRefresh slot none).fewer (List.Sublist.refl _) List.filter_sublist

/-! ## Passes -/

theorem TableOk.settle {tb : SessionTable} (h : TableOk tb) : TableOk tb.settle := by
  obtain ⟨r, w, e⟩ := tb.settle_frame
  exact e ▸ h.congr rfl rfl rfl

theorem TableOk.minuteEvent {tb : SessionTable} (h : TableOk tb) (known : Bool) (d m : Nat) :
    TableOk (tb.minuteEvent known d m) := by
  obtain ⟨r, w, e⟩ := tb.minuteEvent_frame known d m
  exact e ▸ h.congr rfl rfl rfl

/-- R72: a removal of the running pass. -/
theorem TableOk.housekeep {tb : SessionTable} (h : TableOk tb) (e : SessionEntry) (p : HousekeepingPass) :
    TableOk (tb.housekeep e p) :=
  TableOk.settle ((h.remove e.slot).congr rfl rfl rfl)

/-! ## Merges -/

/-- R61, R64, R70: an insertion takes an empty slot, or an evicted entry's. -/
theorem TableOk.insert {tb : SessionTable} (h : TableOk tb) {r : SessionRecord}
    (hkey : ∀ e ∈ tb.entries, e.record.key ≠ r.key) (st : Settings) (t : TimeUnit) (isLocal : Bool) : TableOk (tb.insert st t r isLocal).table := by
  unfold SessionTable.insert
  split
  · next hroom =>
    obtain ⟨slot, hfree, hlt, -, -⟩ := SessionTable.freeSlot_spec hroom
    rw [hfree]
    exact h.place (e := newEntry st tb.arrivalNow slot r isLocal) hlt (fun x hx _ => hkey x hx) tb.arrivalNow_spec.2
  · split
    · next v hv =>
      have hsub : (tb.remove v.slot).entries ⊆ tb.entries := List.filter_sublist.subset
      exact (h.remove v.slot).place (e := newEntry st tb.arrivalNow v.slot r isLocal) (h.slots v (SessionTable.victim_mem hv))
        (fun x hx _ => hkey x (hsub hx)) fun x hx => tb.arrivalNow_spec.2 x (hsub hx)
    · exact h

/-- R63 to R70: a merge keeps the table sound. -/
theorem TableOk.merge {tb : SessionTable} (h : TableOk tb) (st : Settings) (t : TimeUnit) (r : SessionRecord) (isLocal : Bool) :
    TableOk (tb.merge st t r isLocal).table := by
  have scheduled {c : Bool} {slot : Nat} {n : Option Nat} : TableOk (if c then tb.setRefresh slot n else tb) := by
    split
    exacts [h.setRefresh _ _, h]
  unfold SessionTable.merge
  split
  · next hnone => exact h.insert (SessionTable.key_ne_of_holding_none hnone) st t isLocal
  · next e hheld =>
    obtain ⟨he, hkey⟩ := SessionTable.holding_spec hheld
    split
    · have only : ∀ x ∈ tb.entries, x.slot ≠ e.slot → x.record.key ≠ r.key := fun x hx hne hk =>
        hne (congrArg _ (List.inj_on_of_nodup_map h.keysOnce hx he (hk.trans hkey.symm)))
      exact h.place (e := newEntry st tb.arrivalNow e.slot r isLocal) (h.slots e he) only tb.arrivalNow_spec.2
    · split
      · split
        exacts [scheduled, h]
      · exact scheduled

end Sys2Proof.Machine
end

section
/-! PROOFS. Every step keeps the Session Table sound (O35): by the operations of a command on the table, or because it leaves
the table alone. -/

namespace Sys2Proof.Machine

/-! ## Commands and the Session Table -/

/-- R83: the empty table. -/
theorem TableOk.reset : TableOk SessionTable.reset :=
  let ⟨_, _, _, h, _⟩ := resetMeetsEveryInvariant
  h

/-- From one state to the next the Session Table stays sound. -/
def KeepsTable (s t : State) : Prop := TableOk s.sessions → TableOk t.sessions

theorem KeepsTable.refl (s : State) : KeepsTable s s := id

theorem KeepsTable.trans {s t u : State} (h : KeepsTable s t) (k : KeepsTable t u) : KeepsTable s u := fun hs => k (h hs)

/-- What leaves the Session Table as it is. -/
theorem KeepsTable.of_eq {s t : State} (h : t.sessions = s.sessions) : KeepsTable s t := fun hs => h ▸ hs

/-- Time that passes moves the table clock alone (R83). -/
theorem KeepsTable.elapse (n : Nat) (s : State) : KeepsTable s (s.elapse n) := fun hs => by
  rw [State.elapse_sessions]
  exact hs.congr rfl rfl rfl

theorem KeepsTable.after {f : State → State} (h : ∀ u, KeepsTable u (f u)) (w : Option Nat) (s : State) :
    KeepsTable s (s.after w f) := by
  rcases s.after_cases w f with ⟨-, e⟩ | ⟨n, -, e⟩ <;> rw [e]
  exacts [.refl s, (KeepsTable.elapse n s).trans (h _)]

theorem KeepsTable.request {code : Nat} {ok : Bool} {allowed : Mode → Bool} {act : State → State} {s : State}
    (h : KeepsTable s (act s)) : KeepsTable s (s.request code ok allowed act) := by
  rcases State.request_cases code ok allowed act s with e | ⟨st, e⟩ | ⟨-, -, -, -, -, e⟩ <;> rw [e]
  exacts [.refl s, .of_eq rfl, h]

/-- An event that comes about under a condition. -/
theorem KeepsTable.when {c : Prop} [Decidable c] {s t : State} (h : KeepsTable s t) : KeepsTable s (if c then t else s) := by
  split
  exacts [h, .refl s]

/-! ## Lines and Reception -/

@[simp] theorem State.choose_sessions (l : LineId) (s : State) : (s.choose l).sessions = s.sessions := by
  rw [State.choose_frame]

@[simp] theorem State.transmit_sessions (l : LineId) (s : State) : (s.transmit l).sessions = s.sessions := by
  rw [State.transmit_frame]

@[simp] theorem State.offer_sessions (b : Body) (refresh prompt : Bool) (s : State) :
    (s.offer b refresh prompt).sessions = s.sessions := by
  rw [State.offer_frame]

@[simp] theorem State.beaconIndication_sessions (s : State) : s.beaconIndication.sessions = s.sessions := by
  rw [State.beaconIndication_frame]

@[simp] theorem State.inboundOffer_sessions (f : InFrame) (s : State) : (s.inboundOffer f).sessions = s.sessions := by
  rw [State.inboundOffer_frame]

theorem State.afterGap_sessions (l : LineId) (draw : Nat) (s : State) : (s.afterGap l draw).sessions = s.sessions := by
  unfold State.afterGap
  split
  · split <;> simp
  · split
    · split <;> simp
    · split <;> simp
    · rfl
    · rfl

theorem State.goBusy_sessions (l : LineId) (s : State) : (s.goBusy l).sessions = s.sessions := by
  unfold State.goBusy
  dsimp only
  split
  · split <;> simp
  · simp

theorem State.countDone_sessions (l : LineId) (s : State) : (s.countDone l).sessions = s.sessions := by
  unfold State.countDone
  split
  · simp
  · split <;> simp

theorem State.collide_sessions (l : LineId) (s : State) : (s.collide l).sessions = s.sessions := by
  unfold State.collide
  dsimp only
  split <;> simp

theorem State.enterDown_sessions (l : LineId) (s : State) : (s.enterDown l).sessions = s.sessions := State.setLine_sessions ..

theorem State.sentOn_sessions (l : LineId) (s : State) : (s.sentOn l).sessions = s.sessions := State.setLine_sessions ..

theorem State.enterStuck_sessions (l : LineId) (s : State) : (s.enterStuck l).sessions = s.sessions := State.setLine_sessions ..

theorem State.sortFrame_sessions (f : RawFrame) (arrival : Stamp) (s : State) :
    (s.sortFrame f arrival).sessions = s.sessions := by
  unfold State.sortFrame
  split
  · rfl
  split
  · rfl
  split
  · rfl
  dsimp only
  split <;> simp

/-! ## Time, routes, zones and start -/

/-- R38 to R40, R72: an event of the Time Unit gives minute events at most. -/
theorem KeepsTable.timeEvent (o : TimeOut) (s : State) : KeepsTable s (s.timeEvent o) := fun hs => by
  by_cases h : o.time.minute = s.time.minute
  · rw [State.timeEvent_sameMinute h]
    exact hs
  · rw [State.timeEvent_newMinute h]
    refine TableOk.minuteEvent ?_ _ _ _
    rw [State.giveCrossing_sessions]
    split
    exacts [hs.minuteEvent _ _ _, hs]

theorem State.doJob_sessions (job : Job) (upTo : Option Nat) (s : State) : (s.doJob job upTo).sessions = s.sessions := by
  unfold State.doJob
  split <;> rfl

theorem State.buildRound_sessions (s : State) : s.buildRound.sessions = s.sessions := by
  unfold State.buildRound
  dsimp only
  split
  · rfl
  · simp

@[simp] theorem State.withZones_sessions (z : ConditionList) (s : State) : (s.withZones z).sessions = s.sessions := by
  rw [State.withZones_frame]

@[simp] theorem State.offerOwn_sessions (s : State) : s.offerOwn.sessions = s.sessions := by
  simp [State.offerOwn]

theorem State.endPass_sessions (p : Pass) (s : State) : (s.endPass p).sessions = s.sessions := by
  unfold State.endPass
  split <;> rfl

theorem State.start_sessions (s : State) : s.start.sessions = s.sessions := by
  unfold State.start
  split
  · rfl
  · split <;> rfl

/-! ## Posts, refreshes and reads -/

/-- R78: an announcement. -/
theorem KeepsTable.announce (r : SessionRecord) (s : State) : KeepsTable s (s.announce r) := fun hs => by
  have offered : TableOk (s.offer (.session r) false false).sessions := (State.offer_sessions _ _ _ s).symm ▸ hs
  unfold State.announce
  dsimp only
  split
  · exact offered
  · split
    exacts [offered.setRefresh _ _, offered]

/-- R63 to R70: a merge, and a running pass that moves on. -/
theorem TableOk.merged {tb : SessionTable} (h : TableOk tb) (st : Settings) (t : TimeUnit) (r : SessionRecord) (isLocal : Bool)
    (s : State) : TableOk (s.merged (tb.merge st t r isLocal)).sessions := (h.merge st t r isLocal).settle

/-- R77: the posting buffer is emptied. -/
theorem KeepsTable.postDone (st : ReqStatus) (s : State) : KeepsTable s (s.postDone st) := fun hs => hs.congr rfl rfl rfl

/-- R77, R78. -/
theorem KeepsTable.mergePost (r : SessionRecord) (s : State) : KeepsTable s (s.mergePost r) := by
  have merged : KeepsTable s (s.merged (s.sessions.merge s.settings s.time r true)) := fun hs => hs.merged _ _ r true s
  unfold State.mergePost
  dsimp only
  split
  exacts [(merged.trans (.postDone _ _)).trans (.announce r _), merged.trans (.postDone _ _)]

/-- R74. -/
theorem KeepsTable.offerRefresh (e : SessionEntry) (s : State) : KeepsTable s (s.offerRefresh e) := fun hs => by
  have offered : TableOk (s.offer (.session e.record) true false).sessions := (State.offer_sessions _ _ _ s).symm ▸ hs
  exact offered.setRefresh _ _

theorem State.takeReadSession_sessions (body : List Byte) (s : State) : (s.takeReadSession body).sessions = s.sessions := by
  unfold State.takeReadSession
  split
  · split <;> rfl
  · rfl

theorem State.takeReadRoute_sessions (room : Nat) (s : State) : (s.takeReadRoute room).sessions = s.sessions := by
  unfold State.takeReadRoute
  split <;> rfl

theorem State.readPlate_sessions (s : State) : s.readPlate.sessions = s.sessions := by
  unfold State.readPlate
  split <;> rfl

/-! ## Every command -/

/-- An event that takes place outside the Session Table. -/
theorem KeepsTable.afterSide {f : State → State} {w : Option Nat} {s : State} (h : ∀ u, (f u).sessions = u.sessions) :
    KeepsTable s (s.after w f) := .after (fun u => .of_eq (h u)) w s

/-- Every command answers a next state, with the Session Table sound if it was. -/
theorem exec_keepsTable (c : Instr) (s : State) : ∃ t, exec c s = .next t ∧ KeepsTable s t := by
  have setLine (l : LineId) (x : Line) (u : State) : KeepsTable u (u.setLine l x) := .of_eq (State.setLine_sessions ..)
  cases c with
  | resetNAssert =>
    exact ⟨_, rfl, fun _ => TableOk.reset⟩
  | resetNRelease x d => exact ⟨_, rfl, .when (.of_eq (State.start_sessions _))⟩
  | lineIdleGap l draw =>
    exact ⟨_, rfl, .when ((setLine l _ s).trans (.afterSide (State.afterGap_sessions l draw)))⟩
  | lineBusy l => exact ⟨_, rfl, .when (.of_eq (State.goBusy_sessions l s))⟩
  | backoffExpiry l => exact ⟨_, rfl, .afterSide (State.countDone_sessions l)⟩
  | echoFailure l =>
    refine ⟨_, rfl, .when ?_⟩
    split
    exacts [.of_eq (State.enterDown_sessions l s), setLine l _ s]
  | collision l => exact ⟨_, rfl, .when (.of_eq (State.collide_sessions l s))⟩
  | frameSent l => exact ⟨_, rfl, .afterSide (State.sentOn_sessions l)⟩
  | carrierStuck l =>
    refine ⟨_, rfl, ?_⟩
    split
    exacts [(setLine l _ s).trans (.afterSide (State.enterStuck_sessions l)), .refl s]
  | stuckLineRecovery l => exact ⟨_, rfl, .when ((setLine l _ s).trans (.after (fun u => setLine l _ u) _ _))⟩
  | startDelimiter l =>
    refine ⟨_, rfl, .when (.trans ?_ (setLine l _ _))⟩
    split
    exacts [.refl s, .of_eq (State.goBusy_sessions l s)]
  | frameEnd l bytes =>
    refine ⟨_, rfl, ?_⟩
    split
    · dsimp only
      split
      exacts [(setLine l _ s).trans (.of_eq (State.sortFrame_sessions _ _ _)), setLine l _ s]
    · exact .refl s
  | beaconHandover =>
    refine ⟨_, rfl, ?_⟩
    split
    · next f rest hin =>
      have handed : KeepsTable s { s with inbound := rest } := .of_eq rfl
      split
      exacts [handed.trans (.timeEvent _ _), .refl s]
    · exact .refl s
  | roundEnd => exact ⟨_, rfl, .after (fun u => .timeEvent _ u) _ s⟩
  | beaconTimerExpiry =>
    exact ⟨_, rfl, .afterSide fun u => State.beaconIndication_sessions { u with time := _ }⟩
  | minuteEvent => exact ⟨_, rfl, .after (fun _ hs => hs.minuteEvent _ _ _) _ s⟩
  | setTime body =>
    refine ⟨_, rfl, .request ?_⟩
    split
    · split
      exacts [(KeepsTable.timeEvent _ s).trans (.of_eq (State.beaconIndication_sessions _)), .refl s]
    · exact .refl s
  | inboundMerge =>
    refine ⟨_, rfl, ?_⟩
    split
    · split
      exacts [fun hs => hs.merged _ _ _ false _, .refl s]
    · exact .refl s
  | postingBufferMerge =>
    refine ⟨_, rfl, ?_⟩
    split
    · refine .when ?_
      split
      exacts [.mergePost _ s, .postDone _ s]
    · exact .refl s
  | housekeepingRemoval =>
    refine ⟨_, rfl, ?_⟩
    split
    · refine .when ?_
      split
      exacts [fun hs => hs.housekeep _ _, fun hs => hs.settle]
    · exact .refl s
  | refreshDue slot => exact ⟨_, rfl, .after (fun _ hs => hs.requestRefresh slot) _ s⟩
  | refreshScanGrant =>
    refine ⟨_, rfl, ?_⟩
    split
    · next d slot rest hreqs =>
      have asked : KeepsTable s { s with sessions := { s.sessions with refreshReqs := rest } } := fun hs =>
        hs.fewer (List.Sublist.refl _) (hreqs ▸ List.sublist_cons_self _ _)
      refine .when ?_
      dsimp only
      split
      · split
        exacts [asked.trans (.offerRefresh _ _), asked]
      · exact asked
    · exact .refl s
  | tombstoneExpiry slot => exact ⟨_, rfl, .after (fun _ hs => hs.expire slot) _ s⟩
  | composerSessionRead => exact ⟨_, rfl, .when (.of_eq rfl)⟩
  | localPortSessionRead =>
    refine ⟨_, rfl, .when ?_⟩
    split
    · split
      exacts [fun hs => hs.fewer (List.tail_sublist _) (List.Sublist.refl _), .of_eq rfl]
    · exact .refl s
  | advertHandover =>
    refine ⟨_, rfl, ?_⟩
    split
    · split
      exacts [.when (.of_eq rfl), .refl s]
    · exact .refl s
  | advertJob | conditionRecomputation | pinSetUpdate | sweep => exact ⟨_, rfl, .of_eq (State.doJob_sessions _ _ s)⟩
  | frameBuilding =>
    refine ⟨_, rfl, .when ?_⟩
    split
    exacts [.of_eq (State.offer_sessions _ _ _ s), .of_eq (State.buildRound_sessions s)]
  | roundRetry =>
    refine ⟨_, rfl, .after (fun u => ?_) _ s⟩
    dsimp only
    split
    exacts [.of_eq (State.buildRound_sessions _), .of_eq rfl]
  | composerRouteRead => exact ⟨_, rfl, .of_eq (by split <;> rfl)⟩
  | localPortRouteRead =>
    refine ⟨_, rfl, .of_eq ?_⟩
    split
    · split <;> rfl
    · rfl
  | conditionHandover =>
    refine ⟨_, rfl, ?_⟩
    split
    · split
      exacts [.of_eq (State.withZones_sessions _ _), .refl s]
    · exact .refl s
  | contributionExpiry | spillClear => exact ⟨_, rfl, .afterSide fun u => State.withZones_sessions _ u⟩
  | postZones body =>
    refine ⟨_, rfl, .request ?_⟩
    split
    exacts [.of_eq ((State.offerOwn_sessions _).trans (State.withZones_sessions _ s)), .refl s]
  | ownFrameRetry | ownFrameResend => exact ⟨_, rfl, .afterSide State.offerOwn_sessions⟩
  | passEnd =>
    refine ⟨_, rfl, ?_⟩
    split
    exacts [.when (.of_eq (State.endPass_sessions _ s)), .refl s]
  | duplicateEntryExpiry | sweepTimerExpiry | roundDue | promptDue | validUntilReached | panelIntervalExpiry | plateClockedOut
  | ackTimeout | busyTimeout | faultTimerExpiry => exact ⟨_, rfl, .afterSide fun _ => rfl⟩
  | panelAck busy => exact ⟨_, rfl, .of_eq (by split <;> rfl)⟩
  | panelBusyFall | panelHoldFall | panelHoldRise | pgmSupplyFall => exact ⟨_, rfl, .of_eq rfl⟩
  | readStatus | lineRestart | postSession => exact ⟨_, rfl, .request fun hs => hs.congr rfl rfl rfl⟩
  | ackNotices | setAttentionEnables | clearAttentionEnables =>
    exact ⟨_, rfl, .request (.of_eq (by split <;> rfl))⟩
  | readPlate => exact ⟨_, rfl, .request (.of_eq (State.readPlate_sessions s))⟩
  | readSessionByIndex body | readSessionNextChanged body =>
    exact ⟨_, rfl, .request (.of_eq (State.takeReadSession_sessions body s))⟩
  | readRoute body =>
    refine ⟨_, rfl, .request ?_⟩
    split
    exacts [.of_eq (State.takeReadRoute_sessions _ s), .refl s]
  | programWord body supply =>
    have level : KeepsTable s (s.supplyLevel supply) := .of_eq rfl
    refine ⟨_, rfl, level.trans (.request (.of_eq ?_))⟩
    split
    exacts [by rw [State.judgeProgram_frame], rfl]
  | programCycleEnd => exact ⟨_, rfl, .afterSide fun u => by rw [State.endCycle_frame]⟩
  | verifyWord body supply =>
    have level : KeepsTable s (s.supplyLevel supply) := .of_eq rfl
    refine ⟨_, rfl, level.trans (.request (.of_eq ?_))⟩
    split
    exacts [by rw [State.judgeVerify_frame], rfl]
  | requestCodeNamesNoRequest code body => exact ⟨_, rfl, .when (.request (.refl s))⟩

/-- Settles O35: each operation of a command on the Session Table keeps it sound, and every other part of a step leaves it
alone. -/
theorem sessionTableInvariantIsKept : Obligations.SessionTableInvariantIsKept := by
  intro s t hs h
  rcases step_origin h with ⟨c, p, h⟩ | ⟨job, rfl⟩ | rfl
  · obtain ⟨u, hu, hkeeps⟩ := exec_keepsTable c { s with pending := p }
    obtain rfl := Host.Outcome.next.inj (hu.symm.trans h)
    exact hkeeps hs
  · exact (State.doJob_sessions job _ s).symm ▸ hs
  · exact KeepsTable.elapse 1 s hs

end Sys2Proof.Machine
end

section
/-! PROOFS. The port arbiter, and the reads of the Session Table that it grants (O34). -/

namespace Sys2Proof.Machine

/-! ## Who waits for the store (R79) -/

theorem Body.isSession_iff (b : Body) : b.isSession = true ↔ ∃ r, b = .session r := by
  cases b <;> simp [Body.isSession]

/-- R34, R79: the inbound merge waits while a SESSION frame stands at the head. -/
theorem State.inboundWaits_iff (s : State) :
    s.inbound.head?.any (·.body.isSession) = true ↔ ∃ f rest r, s.inbound = f :: rest ∧ f.body = .session r := by
  cases s.inbound with
  | nil => simp
  | cons f rest => simp [Body.isSession_iff]

/-- R79, R145: the Composer waits while its pass has a slot to read. -/
theorem State.composerWantsSlot_iff (s : State) : s.composerWantsSlot = true ↔
    ∃ p, s.composer.pass = some p ∧ p.known = true ∧ (s.settings.homeRoom ≠ 0 ∨ s.settings.directory ≠ []) ∧
      p.slots.length < 64 := by
  simp [State.composerWantsSlot, Option.any_eq_true, Pass.wantsSlot, Pass.reads, Settings.hasSection, Settings.nameplate,
    Settings.directorySection, and_assoc]

/-- R79, R177: the Local Port waits while a READ SESSION is in hand. -/
theorem LocalPort.wantsSession_iff (p : LocalPort) : p.wantsSession = true ↔ ∃ i, p.inHand = some (.readSession i) := by
  unfold LocalPort.wantsSession
  split
  · next i h => simp [h]
  · next hne => simpa using fun i h => hne i h

/-! ## The grant (R79) -/

theorem State.grant_inbound {s : State} (h : s.inbound.head?.any (·.body.isSession) = true) :
    s.grant = some .inboundMerge := if_pos h

/-- Behind the inbound merge the posting-buffer merge comes first. -/
theorem State.grant_noInbound {s : State} (h : ¬s.inbound.head?.any (·.body.isSession) = true) :
    (s.sessions.posting ≠ none → s.grant = some .postingMerge) ∧
    (s.sessions.posting = none → (s.composerWantsSlot = true → s.grant = some .composerRead) ∧
      (¬s.composerWantsSlot = true → (s.port.wantsSession = true → s.grant = some .portRead) ∧
        (¬s.port.wantsSession = true → (s.sessions.running ≠ none → s.grant = some .housekeeping) ∧
          (s.sessions.running = none →
            s.grant = if s.sessions.refreshReqs = [] then none else some .refreshScan)))) := by
  unfold State.grant
  rw [if_neg h]
  refine ⟨fun hp => if_pos (Option.isSome_iff_ne_none.2 hp), fun hp => ?_⟩
  rw [hp, if_neg (by simp)]
  refine ⟨fun hc => if_pos hc, fun hc => ?_⟩
  rw [if_neg hc]
  refine ⟨fun hr => if_pos hr, fun hr => ?_⟩
  rw [if_neg hr]
  refine ⟨fun hk => if_pos (Option.isSome_iff_ne_none.2 hk), fun hk => ?_⟩
  rw [hk, if_neg (by simp)]
  cases s.sessions.refreshReqs <;> rfl

/-! ## A requester that is not granted (R79) -/

theorem exec_postingBufferMerge_other {s : State} (h : s.grant ≠ some .postingMerge) :
    exec .postingBufferMerge s = .next s := by
  show execPostingBufferMerge s = _
  unfold execPostingBufferMerge
  split
  exacts [congrArg _ (if_neg h), rfl]

theorem exec_housekeepingRemoval_other {s : State} (h : s.grant ≠ some .housekeeping) :
    exec .housekeepingRemoval s = .next s := by
  show execHousekeepingRemoval s = _
  unfold execHousekeepingRemoval
  split
  exacts [congrArg _ (if_neg h), rfl]

theorem exec_refreshScanGrant_other {s : State} (h : s.grant ≠ some .refreshScan) : exec .refreshScanGrant s = .next s := by
  show execRefreshScanGrant s = _
  unfold execRefreshScanGrant
  split
  exacts [congrArg _ (if_neg h), rfl]

/-- R79. -/
theorem storeIsGrantedInOrder : Claims.StoreIsGrantedInOrder := by
  intro s merge post compose read
  have hmerge : s.inbound.head?.any (·.body.isSession) = true ↔ merge := s.inboundWaits_iff
  have hcompose : s.composerWantsSlot = true ↔ compose := s.composerWantsSlot_iff
  have hread : s.port.wantsSession = true ↔ read := s.port.wantsSession_iff
  refine ⟨fun h => State.grant_inbound (hmerge.2 h), fun h => ?_, exec_postingBufferMerge_other, fun h => congrArg _ (if_neg h),
    fun h => congrArg _ (if_neg h), exec_housekeepingRemoval_other, exec_refreshScanGrant_other⟩
  obtain ⟨hposting, hrest⟩ := State.grant_noInbound (hmerge.not.2 h)
  rw [hcompose, hread] at hrest
  exact ⟨hposting, fun hp => hrest (not_not.1 hp)⟩

/-! ## Reads (R80, R81) -/

/-- R80: an entry as a read returns it. -/
theorem SessionTable.view_eq (tb : SessionTable) (e : SessionEntry) : tb.view e =
    { slot := e.slot, record := e.record, arrival := e.arrival, isLocal := e.isLocal
      tombstone := decide (e.record.status = .withdrawn), changed := decide (e.slot ∈ tb.changed) } := by
  rw [SessionTable.view, List.contains_eq_mem]
  rfl

/-- R80, R81: an entry as READ SESSION sends it. -/
theorem SessionTable.view_bytes (tb : SessionTable) (e : SessionEntry) : (tb.view e).bytes =
    [byte e.slot] ++ be32 (e.arrival / 1000 % 4294967296)
      ++ [byte ((if e.isLocal then 1 else 0) + (if e.record.status = .withdrawn then 2 else 0)
            + (if e.slot ∈ tb.changed then 4 else 0))]
      ++ [byte (encodeRecord e.record).length] ++ encodeRecord e.record := by
  simp [SessionTable.view_eq, SessionView.bytes, bitIf]

/-- R79 to R81, R177: READ SESSION of an index, granted. -/
theorem exec_localPortSessionRead_index {s : State} {i : Nat} (hg : s.grant = some .portRead)
    (hin : s.port.inHand = some (.readSession i)) (hi : i ≠ 255) :
    exec .localPortSessionRead s = .next { s with port := s.port.readDone (s.sessions.readSlot i) } := by
  show execLocalPortSessionRead s = _
  simp only [execLocalPortSessionRead, hg, hin, hi, if_true, if_false]

/-- R79 to R81, R177: READ SESSION NEXT-CHANGED, granted. -/
theorem exec_localPortSessionRead_next {s : State} (hg : s.grant = some .portRead)
    (hin : s.port.inHand = some (.readSession 255)) :
    exec .localPortSessionRead s = .next { s with
      port := s.port.readDone (s.sessions.changed.head?.bind fun i => s.sessions.readSlot i)
      sessions := { s.sessions with changed := s.sessions.changed.tail } } := by
  show execLocalPortSessionRead s = _
  simp only [execLocalPortSessionRead, hg, hin, if_true]

/-- R80: what a read of a held slot and of an empty one completes with. -/
theorem LocalPort.readDone_readSlot (tb : SessionTable) (slot : Nat) (p : LocalPort) :
    (∀ e, tb.atSlot slot = some e → p.readDone (tb.readSlot slot) = p.complete .ok 0x06 (tb.view e).bytes) ∧
    (tb.atSlot slot = none → p.readDone (tb.readSlot slot) = p.complete .notFound 0x06 []) := by
  unfold SessionTable.readSlot
  exact ⟨fun e he => by rw [he]; rfl, fun hnone => by rw [hnone]; rfl⟩

/-- R79 to R81, R145, R177. -/
theorem grantedReadsReturnOneEntry : Claims.GrantedReadsReturnOneEntry := by
  refine ⟨fun s p hp hg => ?_, fun s hg => ?_⟩
  · show Host.Outcome.next (if s.grant = some .composerRead then _ else s) = _
    rw [if_pos hg, hp, Option.map_some, Pass.readSlot, SessionTable.readSlot]
    simp only [SessionTable.view_eq]
  intro entry
  have hentry : ∀ e, (s.sessions.view e).bytes = entry e := s.sessions.view_bytes
  refine ⟨fun i e hin hi he => ?_, fun i hin hi hnone => ?_, fun i rest e hin hc he => ?_, fun hin hc => ?_⟩
  · rw [exec_localPortSessionRead_index hg hin hi, (LocalPort.readDone_readSlot _ _ _).1 e he, hentry]
    rfl
  · rw [exec_localPortSessionRead_index hg hin hi, (LocalPort.readDone_readSlot _ _ _).2 hnone]
    rfl
  · rw [exec_localPortSessionRead_next hg hin, hc, List.head?_cons, Option.bind_some,
      (LocalPort.readDone_readSlot _ _ _).1 e he, hentry]
    rfl
  · have hmarks : { s.sessions with changed := [] } = s.sessions := by rw [← hc]
    rw [exec_localPortSessionRead_next hg hin, hc, List.tail_nil, hmarks]
    rfl

/-- Settles O34. -/
theorem sessionReadsReturnOneEntry : Obligations.SessionReadsReturnOneEntry :=
  ⟨storeIsGrantedInOrder, grantedReadsReturnOneEntry⟩

end Sys2Proof.Machine
end

section
/-! PROOFS. POSTING_BUFFER_MERGE: the record is judged, merged, answered and announced (O32). -/

namespace Sys2Proof.Machine

/-- R79: behind no SESSION frame the posted record is merged. -/
theorem State.grant_posting {s : State} {bs : List Byte} (hp : s.sessions.posting = some bs)
    (h : ∀ f, s.inbound.head? = some f → f.body.isSession = false) : s.grant = some .postingMerge := by
  refine (State.grant_noInbound fun hany => ?_).1 (by simp [hp])
  obtain ⟨f, hf, hsession⟩ := (Option.any_eq_true _ _).1 hany
  rw [h f hf] at hsession
  cases hsession

/-- R77, R79: the posted record granted the store, with a fault and without. -/
theorem exec_postingBufferMerge_granted {s : State} {bs : List Byte} (hp : s.sessions.posting = some bs)
    (hg : s.grant = some .postingMerge) :
    (readRecord bs = none → exec .postingBufferMerge s = .next (s.postDone .malformed)) ∧
    (∀ r, readRecord bs = some r → exec .postingBufferMerge s = .next (s.mergePost r)) := by
  have hexec : exec .postingBufferMerge s = execPostingBufferMerge s := rfl
  simp only [hexec, execPostingBufferMerge, hp, hg, if_true]
  exact ⟨fun hr => by rw [hr], fun r hr => by rw [hr]⟩

/-- R77: a post that is not ACCEPTED is merged and answered. -/
theorem State.mergePost_answered {r : SessionRecord} {s : State}
    (h : (s.sessions.merge s.settings s.time r true).course.result ≠ .accepted) :
    s.mergePost r = (s.merged (s.sessions.merge s.settings s.time r true)).postDone
      (s.sessions.merge s.settings s.time r true).course.result := if_neg h

/-- R78: an ACCEPTED one is announced as well. -/
theorem State.mergePost_accepted {r : SessionRecord} {s : State}
    (h : (s.sessions.merge s.settings s.time r true).course.result = .accepted) :
    s.mergePost r = ((s.merged (s.sessions.merge s.settings s.time r true)).postDone .accepted).announce r := by
  rw [State.mergePost, if_pos h, h]

/-- R78: an announcement that the Transmit Queue takes. -/
theorem State.announce_taken {r : SessionRecord} {s : State} (h : s.takes (.session r) = true) :
    s.announce r = s.offer (.session r) false false := if_pos h

/-- R78: one that it refuses is made up for by a refresh 1 s later. -/
theorem State.announce_refused {r : SessionRecord} {s : State} {e : SessionEntry} (h : s.takes (.session r) = false)
    (he : s.sessions.holding r.key = some e) :
    s.announce r = { s with sessions := s.sessions.setRefresh e.slot (some (s.sessions.clock + 1000000)) } := by
  rw [State.announce, State.offer_refused h]
  simp only [h, he]
  rfl

/-- Settles O32: the course of the merge gives the answer, and an ACCEPTED record is announced. -/
theorem postIsMergedAndAnswered : Obligations.PostIsMergedAndAnswered := by
  intro s bs hp hhead done
  obtain ⟨hfault, hgood⟩ := exec_postingBufferMerge_granted hp (State.grant_posting hp hhead)
  refine ⟨hfault, fun r hr => ?_⟩
  rw [hgood r hr]
  intro o merged
  have answered (st : ReqStatus) (hc : o.course.result = st) (hst : st ≠ .accepted) :
      s.mergePost r = (s.merged o).postDone st := hc ▸ State.mergePost_answered (hc.symm ▸ hst)
  refine ⟨fun hc => ?_, fun hc => ?_, fun hc => ?_⟩
  · have hstale : o.course.result = .stale := by
      rcases hc with hc | hc | hc <;> rw [hc] <;> rfl
    rw [answered .stale hstale (by decide)]
    rfl
  · rw [answered .full (by rw [hc]; rfl) (by decide)]
    rfl
  · have haccepted : o.course.result = .accepted := by
      rcases hc with hc | hc <;> rw [hc] <;> rfl
    rw [State.mergePost_accepted haccepted]
    exact ⟨fun htakes => congrArg _ (State.announce_taken htakes),
      fun htakes e he => congrArg _ (State.announce_refused htakes he)⟩

end Sys2Proof.Machine
end

section
/-! PROOFS. HOUSEKEEPING_REMOVAL and TOMBSTONE_EXPIRY, REFRESH_DUE and REFRESH_SCAN_GRANT (O33). -/

namespace Sys2Proof.Machine

/-! ## HOUSEKEEPING_REMOVAL and TOMBSTONE_EXPIRY -/

/-- R72: the one entry of the lowest slot ahead of the pass is removed next. -/
theorem SessionTable.removal_eq {tb : SessionTable} {p : HousekeepingPass} {e : SessionEntry} (he : e ∈ tb.entries)
    (ha : tb.ahead p e = true) (hlow : ∀ x ∈ tb.entries, tb.ahead p x = true → x ≠ e → e.slot < x.slot) :
    tb.removal p = some e := by
  cases hr : tb.removal p with
  | none => exact absurd ha (SessionTable.removal_eq_none.1 hr e he)
  | some v =>
    obtain ⟨hv, hva, hvlow⟩ := SessionTable.removal_spec hr
    by_contra hne
    exact absurd (hvlow e he ha) (Nat.not_le.2 (hlow v hv hva fun h => hne (h ▸ rfl)))

/-- R72, R79, R82: the removal of a pass that is granted the store. -/
theorem exec_housekeepingRemoval {s : State} {p : HousekeepingPass} {e : SessionEntry} (hp : s.sessions.running = some p)
    (hg : s.grant = some .housekeeping) (hr : s.sessions.removal p = some e) :
    exec .housekeepingRemoval s = .next { s with
      sessions := s.sessions.housekeep e p
      composer := s.composer.onSessions s.settings s.passNow [removedReport e.record] } := by
  show execHousekeepingRemoval s = _
  simp only [execHousekeepingRemoval, hp, hg, hr, if_true]

/-- R62, R71: the expiry of a tombstone whose time has come. -/
theorem exec_tombstoneExpiry {s : State} {slot t : Nat} {e : SessionEntry} (he : s.sessions.atSlot slot = some e)
    (ht : e.expiry = some t) (hle : t ≤ s.sessions.clock) :
    exec (.tombstoneExpiry slot) s = .next { s with sessions := s.sessions.expire slot } := by
  have hw : clockWait s.sessions.clock ((s.sessions.atSlot slot).bind (·.expiry)) = some 0 := by
    simp [clockWait, he, ht, Nat.sub_eq_zero_of_le hle]
  show Host.Outcome.next (s.after (clockWait s.sessions.clock _) _) = _
  rw [hw, State.after_due]

/-- R62, R71, R72, R74, R79, R82. -/
theorem housekeepingRemovesWhatHasEnded : Claims.HousekeepingRemovesWhatHasEnded := by
  refine ⟨fun s p e hp hg he hnext => ?_, fun s slot e t he ht hle => exec_tombstoneExpiry he ht hle⟩
  intro past hpast hlow
  have hahead : ∀ x, s.sessions.ahead p x = true ↔ p.next ≤ x.slot ∧ past x := s.sessions.ahead_iff p
  have hr : s.sessions.removal p = some e := SessionTable.removal_eq he ((hahead e).2 ⟨hnext, hpast⟩) fun x hx hxa =>
    let ⟨hxnext, hxpast⟩ := (hahead x).1 hxa
    hlow x hx hxnext hxpast
  exact exec_housekeepingRemoval hp hg hr

/-! ## REFRESH_DUE -/

/-- Inserting puts the element behind the ones that it does not precede, before the first that it does. -/
theorem insertBy_split {α : Type} (precedes : α → α → Bool) (x : α) (l : List α) :
    ∃ before after, l = before ++ after ∧ insertBy precedes x l = before ++ x :: after ∧
      (∀ y ∈ before, precedes x y = false) ∧ ∀ y, after.head? = some y → precedes x y = true := by
  induction l with
  | nil => exact ⟨[], [], rfl, rfl, by simp, by simp⟩
  | cons z l ih =>
    by_cases hz : precedes x z = true
    · exact ⟨[], z :: l, rfl, if_pos hz, by simp, by simpa using hz⟩
    · obtain ⟨before, after, hl, hins, hbefore, hafter⟩ := ih
      refine ⟨z :: before, after, congrArg _ hl, ?_, List.forall_mem_cons.2 ⟨by simpa using hz, hbefore⟩, hafter⟩
      rw [insertBy, if_neg hz, hins]
      rfl

/-- R74: the order of requests. -/
theorem requestPrecedes_iff (x y : Nat × Nat) : requestPrecedes x y = true ↔ x.1 < y.1 ∨ (x.1 = y.1 ∧ x.2 < y.2) := by
  simp only [requestPrecedes, Bool.or_eq_true, Bool.and_eq_true, decide_eq_true_eq]

/-- R74: a slot is requested while a request names it. -/
theorem SessionTable.requested_iff (slot : Nat) (tb : SessionTable) :
    tb.requested slot = true ↔ ∃ q ∈ tb.refreshReqs, q.2 = slot := by
  simp only [SessionTable.requested, List.any_eq_true, decide_eq_true_eq]

/-- R74: a due entry not yet requested is requested now. -/
theorem exec_refreshDue {s : State} {slot due : Nat} {e : SessionEntry} (he : s.sessions.atSlot slot = some e)
    (hdue : e.nextRefresh = some due) (hle : due ≤ s.sessions.clock) (hnot : ¬s.sessions.requested slot = true) :
    exec (.refreshDue slot) s = .next { s with sessions := { s.sessions with
      refreshReqs := insertBy requestPrecedes (due, slot) s.sessions.refreshReqs } } := by
  have hw : s.sessions.refreshWait slot = some 0 := by
    simp [SessionTable.refreshWait, onlyIf, clockWait, hnot, he, hdue, Nat.sub_eq_zero_of_le hle]
  show Host.Outcome.next (s.after (s.sessions.refreshWait slot) _) = _
  rw [hw, State.after_due]
  simp only [SessionTable.requestRefresh, he, Option.bind_some, hdue]

/-- R74: a slot whose request is outstanding is not requested again. -/
theorem exec_refreshDue_requested {s : State} {slot : Nat} (h : s.sessions.requested slot = true) :
    exec (.refreshDue slot) s = .next s := by
  show Host.Outcome.next (s.after (s.sessions.refreshWait slot) _) = _
  rw [SessionTable.refreshWait, h]
  rfl

/-! ## REFRESH_SCAN_GRANT -/

/-- R74, R79: the first request of the refresh scan, granted the store. -/
theorem exec_refreshScanGrant {s : State} {d slot : Nat} {rest : List (Nat × Nat)}
    (hreqs : s.sessions.refreshReqs = (d, slot) :: rest) (hg : s.grant = some .refreshScan) :
    let t : State := { s with sessions := { s.sessions with refreshReqs := rest } }
    (∀ e, s.sessions.atSlot slot = some e → e.refreshNow s.settings s.sessions.clock = true →
      exec .refreshScanGrant s = .next (t.offerRefresh e)) ∧
    ((∀ e, s.sessions.atSlot slot = some e → ¬e.refreshNow s.settings s.sessions.clock = true) →
      exec .refreshScanGrant s = .next t) := by
  have hexec : exec .refreshScanGrant s = execRefreshScanGrant s := rfl
  simp only [hexec, execRefreshScanGrant, hreqs, hg, if_true]
  refine ⟨fun e he hnow => ?_, fun hnot => ?_⟩
  · simp only [he, hnow, if_true]
  · cases he : s.sessions.atSlot slot with
    | none => rfl
    | some e => exact congrArg _ (if_neg (hnot e he))

/-- R62: the entries that the station refreshes. -/
theorem SessionEntry.refreshable_iff (st : Settings) (clock : Nat) (e : SessionEntry) : e.refreshable st clock = true ↔
    ((st.homeRoom ≠ 0 ∧ st.homeRoom ∈ e.record.rooms) ∨ e.isLocal = true) ∧
      ¬(e.record.status = .withdrawn ∧ ∃ t, e.expiry = some t ∧ t ≤ clock) := by
  simp only [SessionEntry.refreshable_eq, Bool.and_eq_true, Bool.or_eq_true, decide_eq_true_eq, Bool.not_eq_true',
    ← Bool.not_eq_true, Option.any_eq_true]

/-- R74: an entry offered at the grant of its refresh. -/
theorem SessionEntry.refreshNow_iff (st : Settings) (clock : Nat) (e : SessionEntry) : e.refreshNow st clock = true ↔
    e.refreshable st clock = true ∧ ∃ n, e.nextRefresh = some n ∧ n ≤ clock := by
  simp only [SessionEntry.refreshNow, Bool.and_eq_true, Option.any_eq_true, decide_eq_true_eq]

/-- R62, R74, R79. -/
theorem refreshIsRequestedAndOffered : Claims.RefreshIsRequestedAndOffered := by
  refine ⟨fun s slot due e he hdue hle hnot => ?_,
    fun s slot h => exec_refreshDue_requested ((SessionTable.requested_iff ..).2 h), fun s d slot rest hreqs hg => ?_⟩
  · have hfree : ¬s.sessions.requested slot = true := fun h =>
      let ⟨q, hq, hqs⟩ := (SessionTable.requested_iff ..).1 h
      hnot q hq hqs
    obtain ⟨sooner, later, hsplit, hins, hsooner, hlater⟩ := insertBy_split requestPrecedes (due, slot) s.sessions.refreshReqs
    refine ⟨sooner, later, hsplit, by rw [exec_refreshDue he hdue hle hfree, hins], fun q hq => ?_, fun q hq => ?_⟩
    · have hother := hnot q (hsplit ▸ List.mem_append_left _ hq)
      have hafter := (requestPrecedes_iff (due, slot) q).not.1 (by simp [hsooner q hq])
      dsimp only at hafter
      omega
    · exact (requestPrecedes_iff (due, slot) q).1 (hlater q hq)
  · intro t refreshable
    have hown : ∀ e : SessionEntry, e.refreshable s.settings s.sessions.clock = true ↔ refreshable e :=
      SessionEntry.refreshable_iff s.settings s.sessions.clock
    obtain ⟨hoffered, hpassed⟩ := exec_refreshScanGrant hreqs hg
    refine ⟨fun e he hr hdue => ?_, fun hnone => hpassed fun e he hnow => ?_⟩
    · have hnow := (SessionEntry.refreshNow_iff s.settings s.sessions.clock e).2 ⟨(hown e).2 hr, hdue⟩
      rw [hoffered e he hnow, State.offerRefresh, (SessionTable.atSlot_spec he).2, State.offer_sessions]
      rfl
    · obtain ⟨hr, n, hn, hle⟩ := (SessionEntry.refreshNow_iff ..).1 hnow
      rcases hnone e he with hnot | hlater
      · exact hnot ((hown e).1 hr)
      · exact absurd hle (Nat.not_le.2 (hlater n hn))

/-- Settles O33. -/
theorem housekeepingAndRefresh : Obligations.HousekeepingAndRefresh :=
  ⟨housekeepingRemovesWhatHasEnded, refreshIsRequestedAndOffered⟩

end Sys2Proof.Machine
end

section
/-! PROOFS. How costs rank (O36), and the best that is selected of an entry's candidates (O37). -/

namespace Sys2Proof.Machine

/-! ## Ranks (R85) -/

/-- R85: a cost's place in the order of ranks: class, then metres, then hop count. -/
def Cost.rank : Cost → Nat ×ₗ Nat ×ₗ Nat
  | .finite m h => toLex (0, toLex (m, h))
  | .closed h => toLex (1, toLex (0, h))
  | .unknown => toLex (2, toLex (0, 0))
  | .unreachable => toLex (3, toLex (0, 0))

/-- R85: to rank better is to come before in that order. -/
theorem Cost.better_iff_rank_lt (x y : Cost) : x.better y = true ↔ x.rank < y.rank := by
  cases x <;> cases y <;> simp [Cost.better, Cost.rank, Cost.classRank, Prod.Lex.toLex_lt_toLex]

theorem Cost.better_eq_false_iff (x y : Cost) : x.better y = false ↔ y.rank ≤ x.rank := by
  rw [← Bool.not_eq_true, Cost.better_iff_rank_lt, not_lt]

/-- R85: no two costs share a rank. -/
theorem Cost.rank_injective : Function.Injective Cost.rank := by
  intro x y h
  cases x <;> cases y <;> simp_all [Cost.rank]

theorem Cost.better_asymm {x y : Cost} (h : x.better y = true) : y.better x = false :=
  (Cost.better_eq_false_iff y x).2 ((Cost.better_iff_rank_lt x y).1 h).le

theorem Cost.better_trans {x y z : Cost} (h : x.better y = true) (k : y.better z = true) : x.better z = true :=
  (Cost.better_iff_rank_lt x z).2 (((Cost.better_iff_rank_lt x y).1 h).trans ((Cost.better_iff_rank_lt y z).1 k))

theorem Cost.better_negTrans {x y z : Cost} (h : x.better y = false) (k : y.better z = false) : x.better z = false :=
  (Cost.better_eq_false_iff x z).2 (((Cost.better_eq_false_iff y z).1 k).trans ((Cost.better_eq_false_iff x y).1 h))

@[simp] theorem Cost.better_self (x : Cost) : x.better x = false := (Cost.better_eq_false_iff x x).2 le_rfl

/-- R85: equal rank is equality. -/
theorem Cost.equalRank_iff (x y : Cost) : (x.better y = false ∧ y.better x = false) ↔ x = y := by
  rw [Cost.better_eq_false_iff, Cost.better_eq_false_iff, and_comm, ← le_antisymm_iff, Cost.rank_injective.eq_iff]

/-- Settles O36. -/
theorem costsAreRankedByTheRule : Obligations.CostsAreRankedByTheRule := by
  refine ⟨fun m h n k => by simp [Cost.better], fun h k => by simp [Cost.better],
    fun m h k => ⟨rfl, rfl, rfl, rfl, rfl, rfl⟩, fun x y => ?_, fun _ _ => Cost.better_asymm, fun _ _ _ => Cost.better_trans⟩
  rw [Cost.equalRank_iff]
  constructor
  · rintro rfl
    cases x <;> simp
  · rintro (⟨m, h, rfl, rfl⟩ | ⟨h, rfl, rfl⟩ | ⟨rfl, rfl⟩ | ⟨rfl, rfl⟩) <;> rfl

/-! ## The selected best (R93, R94) -/

/-- Of a list that is not empty a strict weak order picks an element better than all before it, with none after it better. -/
theorem exists_pickBest_split {α : Type} {better : α → α → Bool} (asymm : ∀ a b, better a b = true → better b a = false)
    (negTrans : ∀ a b c, better a b = false → better b c = false → better a c = false) {l : List α} (h : l ≠ []) :
    ∃ before x after, l = before ++ x :: after ∧ pickBest better l = some x ∧
      (∀ y ∈ before, better x y = true) ∧ ∀ y ∈ after, better y x = false := by
  suffices ∃ before x after, l = before ++ x :: after ∧ (∀ y ∈ before, better x y = true) ∧ ∀ y ∈ after, better y x = false by
    obtain ⟨before, x, after, rfl, hbefore, hafter⟩ := this
    exact ⟨before, x, after, rfl, pickBest_split hbefore hafter, hbefore, hafter⟩
  induction l with
  | nil => exact absurd rfl h
  | cons a l ih =>
    rcases eq_or_ne l [] with rfl | hl
    · exact ⟨[], a, [], rfl, by simp, by simp⟩
    obtain ⟨before, x, after, rfl, hbefore, hafter⟩ := ih hl
    cases hxa : better x a with
    | true => exact ⟨a :: before, x, after, rfl, by simpa using ⟨hxa, hbefore⟩, hafter⟩
    | false =>
      refine ⟨[], a, before ++ x :: after, rfl, by simp, fun y hy => ?_⟩
      rcases List.mem_append.1 hy with hy | hy
      · exact negTrans y x a (asymm x y (hbefore y hy)) hxa
      · rcases List.mem_cons.1 hy with rfl | hy
        exacts [hxa, negTrans y x a (hafter y hy) hxa]

/-- R94: a best has its candidate's cost, and points nowhere where that is UNKNOWN or UNREACHABLE. -/
theorem bestFrom_eq (link : Nat) (c : Cost) :
    bestFrom link c = { cost := c, link := if c = .unknown ∨ c = .unreachable then none else some link } := by
  cases c <;> simp [bestFrom]

theorem Settings.isHome_iff (st : Settings) (room : Nat) : st.isHome room = true ↔ st.homeRoom ≠ 0 ∧ room = st.homeRoom := by
  simp [Settings.isHome]

/-- R93: the home room's best. -/
theorem RouteEntry.selected_home {st : Settings} {x : RouteEntry} (h : st.isHome x.room = true) (closed : ZoneVec) (level : Bool) :
    x.selected st closed level = { cost := homeCandidate st closed, link := none } := if_pos h

/-- R94: another room's best. -/
theorem RouteEntry.selected_other {st : Settings} {x : RouteEntry} (h : ¬st.isHome x.room = true) (closed : ZoneVec) (level : Bool) :
    x.selected st closed level = selectBest (x.candidates st closed level) := if_neg h

/-- R94: the link whose candidate becomes the best: better than those of all links before it, and no later one is better. -/
theorem selectBest_split (form : Link → Formed) {links : List Link} (h : links ≠ []) :
    ∃ before k after, links = before ++ k :: after ∧
      selectBest (links.map fun k => (k.index, form k)) = bestFrom k.index (form k).cost ∧
      (∀ j ∈ before, (form k).cost.better (form j).cost = true) ∧ ∀ j ∈ after, (form j).cost.better (form k).cost = false := by
  obtain ⟨before, k, after, rfl, -, hbefore, hafter⟩ :=
    exists_pickBest_split (better := fun j k => (form j).cost.better (form k).cost) (fun _ _ => Cost.better_asymm)
      (fun _ _ _ => Cost.better_negTrans) h
  refine ⟨before, k, after, rfl, ?_, hbefore, hafter⟩
  have hpick := pickBest_split (better := fun x y : Nat × Formed => x.2.cost.better y.2.cost) (x := (k.index, form k))
    (before := before.map fun k => (k.index, form k)) (after := after.map fun k => (k.index, form k))
    (List.forall_mem_map.2 hbefore) (List.forall_mem_map.2 hafter)
  rw [selectBest, List.map_append, List.map_cons, hpick]

/-- Settles O37. -/
theorem bestIsTheLowestCandidate : Obligations.BestIsTheLowestCandidate := by
  intro st closed level x
  refine ⟨fun h0 hroom => RouteEntry.selected_home ((st.isHome_iff _).2 ⟨h0, hroom⟩) closed level, fun hother hindex => ?_⟩
  have hsel := RouteEntry.selected_other (mt (st.isHome_iff x.room).1 (by tauto)) closed level
  intro cost
  have hempty : st.links = [] → x.selected st closed level = { cost := .unknown, link := none } := fun hnil => by
    rw [hsel, RouteEntry.candidates, hnil]
    rfl
  refine ⟨hempty, ?_⟩
  rcases eq_or_ne st.links [] with hnil | hlinks
  · simp [hnil]
  obtain ⟨before, k, after, hsplit, hbest, hbefore, hafter⟩ :=
    selectBest_split (fun k => candidate st closed level k (x.held level k.index)) hlinks
  rw [RouteEntry.candidates, hbest, bestFrom_eq] at hsel
  rw [hsel]
  refine ⟨fun j hj => ?_, fun _ => ⟨k, by simp [hsplit], rfl, rfl, fun j hj hlt => ?_⟩⟩
  · rcases List.mem_append.1 (hsplit ▸ hj) with hj | hj
    · exact Cost.better_asymm (hbefore j hj)
    · rcases List.mem_cons.1 hj with rfl | hj
      exacts [Cost.better_self _, hafter j hj]
  · rw [hsplit, List.pairwise_map, List.pairwise_append, List.pairwise_cons] at hindex
    obtain ⟨-, ⟨hlater, -⟩, -⟩ := hindex
    rcases List.mem_append.1 (hsplit ▸ hj) with hj | hj
    · exact hbefore j hj
    · rcases List.mem_cons.1 hj with rfl | hj
      exacts [absurd hlt (lt_irrefl _), absurd hlt (hlater j hj).le.not_gt]

end Sys2Proof.Machine
end

section
/-! PROOFS. How candidates are formed and bests advertised (O39), and what a route part displays (O40). -/

namespace Sys2Proof.Machine

/-! ## Candidates (R88 to R92) -/

/-- R88: what a STAIRS link has in the LEVEL profile. -/
theorem candidate_stairs {st : Settings} {closed : ZoneVec} {level : Bool} {k : Link} (h : level = true ∧ k.stairs = true)
    (v : Option AdvValue) : candidate st closed level k v = { cost := .unreachable, notices := 0 } :=
  if_pos (Bool.and_eq_true_iff.2 h)

/-- R91: a sum of at most 32,000 m is kept, and a greater one treated by the policy, with its notice. -/
theorem sumCandidate_eq (policy : OverflowPolicy) (sum hops : Nat) : sumCandidate policy sum hops =
    if sum ≤ 32000 then { cost := .finite sum hops, notices := 0 }
    else if policy = .limit then { cost := .finite 32000 hops, notices := 0x1000#16 }
    else { cost := .unreachable, notices := 0x1000#16 } := by
  cases policy <;> rfl

/-- R88 to R92. -/
theorem candidateIsFormedByTheFirstCase : Claims.CandidateIsFormedByTheFirstCase := by
  intro st closed level k v formed
  refine ⟨fun h => candidate_stairs h v, fun h => ?_⟩
  have hform : formed = _ := if_neg (mt Bool.and_eq_true_iff.1 h)
  rw [hform]
  refine ⟨?_, ?_, ?_, ?_, ?_⟩
  · rintro rfl
    rfl
  · rintro via rfl
    rfl
  · rintro via rfl
    rfl
  · rintro via h rfl
    rfl
  · rintro via c h rfl
    dsimp only
    rw [sumCandidate_eq]
    rfl

/-! ## Values advertised (R97, R112) -/

/-- Of the links with their indices the one of an index. -/
theorem Settings.find_link {st : Settings} {k : Link} (hk : k ∈ st.links) (hnodup : (st.links.map (·.index)).Nodup) :
    st.links.find? (fun j => decide (j.index = k.index)) = some k := by
  cases hfind : st.links.find? (fun j => decide (j.index = k.index)) with
  | none => exact absurd (List.find?_eq_none.1 hfind k hk) (by simp)
  | some j =>
    have hindex : j.index = k.index := by simpa using List.find?_some hfind
    rw [List.inj_on_of_nodup_map hnodup (List.mem_of_find?_eq_some hfind) hk hindex]

/-- R97, R112. -/
theorem advertisedValueFollowsTheTable : Claims.AdvertisedValueFollowsTheTable := by
  intro st kept k hk hnodup own
  have hvia : ((st.links.find? fun j => decide (j.index = k.index)).map (·.neighbour)).getD 0 = k.neighbour := by
    rw [Settings.find_link hk hnodup]
    rfl
  refine ⟨fun c h => ?_, fun h => ?_, fun hown => ?_, rfl, rfl, rfl⟩
  · rw [← hvia]
    rfl
  · rw [← hvia]
    rfl
  · have hopen : ¬zoneSet kept st.zone = true := by simpa [own, zoneSet] using hown
    simp only [Best.advertised, if_neg hopen]

/-- Settles O39. -/
theorem candidatesAndAdvertisedValues : Obligations.CandidatesAndAdvertisedValues :=
  ⟨candidateIsFormedByTheFirstCase, advertisedValueFollowsTheTable⟩

/-! ## Route parts (R98, R131) -/

/-- R98: a distance other than "here" is the nearest multiple of 10 m, a 5 upwards, and at least 10 m. -/
theorem displayedDistance_spec {m : Nat} (h : m ≠ 0) :
    displayedDistance m = max 10 (10 * ((m + 5) / 10)) ∧ 10 ≤ displayedDistance m ∧ displayedDistance m % 10 = 0 ∧
      (5 ≤ m → displayedDistance m ≤ m + 5 ∧ m < displayedDistance m + 5) := by
  have hd : displayedDistance m = max 10 (10 * ((m + 5) / 10)) := if_neg h
  refine ⟨hd, ?_⟩
  omega

/-- R98: the distance is that of a finite ANY best. -/
theorem RouteView.part_distance_finite {v : RouteView} {m h : Nat} (hc : v.any.cost = .finite m h) :
    v.part.distance = some (displayedDistance m) := by
  simp only [RouteView.part, hc]

/-- R98: a best that is not finite has none. -/
theorem RouteView.part_distance_none {v : RouteView} (hc : ∀ m h, v.any.cost ≠ .finite m h) : v.part.distance = none := by
  cases h : v.any.cost with
  | finite m n => exact absurd h (hc m n)
  | closed | unknown | unreachable => simp only [RouteView.part, h]

/-- Settles O40. -/
theorem displayedDistanceIsRounded : Obligations.DisplayedDistanceIsRounded := by
  intro v
  refine ⟨fun h hc => RouteView.part_distance_finite hc, fun m h hc hm => ?_, RouteView.part_distance_none,
    fun m h hc => ⟨fun hl => ?_, fun i hl => ?_⟩, ⟨fun h hc => ?_, fun hc => ?_, fun hc => ?_⟩, fun m h hc => ?_, fun hc => ?_⟩
  · exact ⟨_, RouteView.part_distance_finite hc, displayedDistance_spec hm⟩
  · simp only [RouteView.part, RouteView.state, hc, hl]
  · simp only [RouteView.part, RouteView.state, hc, hl]
  · simp only [RouteView.part, RouteView.state, hc]
  · simp only [RouteView.part, RouteView.state, hc]
  · simp only [RouteView.part, RouteView.state, hc]
  · simp only [RouteView.part, RouteView.stepFree, hc]
  · cases h : v.level.cost with
    | finite m n => exact absurd h (hc m n)
    | closed | unknown | unreachable => simp only [RouteView.part, RouteView.stepFree, h]

end Sys2Proof.Machine
end

section
/-! PROOFS. What a command can do to the Route Engine, said once: every step is a chain of the changes listed in `RouteChange`, but
for the entry to RUN. -/

namespace Sys2Proof.Machine

/-! ## The parts of a command -/

/-- The Route Engine's table, room sets and jobs with pins or in hand, everything else at its reset value. -/
def RouteEngine.tables (e : RouteEngine) : RouteEngine :=
  { RouteEngine.reset with
    entries := e.entries, pinSet := e.pinSet, promptSet := e.promptSet, pinJob := e.pinJob, inHand := e.inHand }

/-- One part of what a command does to the Route Engine. -/
inductive RouteChange : RouteEngine → RouteEngine → Prop
  | side {e f : RouteEngine} (h : f.tables = e.tables) : RouteChange e f
  | reset (e : RouteEngine) : RouteChange e RouteEngine.reset
  | job (st : Settings) (closed : ZoneVec) (job : Job) (upTo : Option Nat) (e : RouteEngine) :
      RouteChange e (e.doJob st closed job upTo).eng
  | prompt (taken : Bool) (rooms : List Nat) (e : RouteEngine) : RouteChange e (e.promptOffered taken rooms)
  | pins (st : Settings) (p : Pass) (old : List Nat) (e : RouteEngine) : RouteChange e (e.sendPins (p.selection st).pins old)

/-- From one state to the next the Route Engine changes by parts one after the other. -/
def RoutePath (s t : State) : Prop := Relation.ReflTransGen RouteChange s.routes t.routes

theorem RoutePath.refl (s : State) : RoutePath s s := Relation.ReflTransGen.refl

theorem RoutePath.trans {s t u : State} (h : RoutePath s t) (k : RoutePath t u) : RoutePath s u := Relation.ReflTransGen.trans h k

theorem RoutePath.single {s t : State} (h : RouteChange s.routes t.routes) : RoutePath s t := Relation.ReflTransGen.single h

/-- What leaves table, room sets and these jobs as they are. -/
theorem RoutePath.side {s t : State} (h : t.routes.tables = s.routes.tables) : RoutePath s t := .single (.side h)

theorem RoutePath.of_eq {s t : State} (h : t.routes = s.routes) : RoutePath s t := .side (congrArg _ h)

/-- What every part keeps, a chain of parts keeps. -/
theorem RoutePath.keeps {p : RouteEngine → Prop} (part : ∀ {e f}, RouteChange e f → p e → p f) {s t : State} (h : RoutePath s t)
    (hs : p s.routes) : p t.routes := by
  unfold RoutePath at h
  generalize t.routes = f at h ⊢
  induction h with
  | refl => exact hs
  | tail _ hp ih => exact part hp ih

/-- Time that passes moves the route clock alone (R119). -/
theorem RoutePath.elapse (n : Nat) (s : State) : RoutePath s (s.elapse n) := .side (by rw [State.elapse_routes]; rfl)

theorem RoutePath.after {f : State → State} (h : ∀ u, RoutePath u (f u)) (w : Option Nat) (s : State) :
    RoutePath s (s.after w f) := by
  rcases s.after_cases w f with ⟨-, e⟩ | ⟨n, -, e⟩ <;> rw [e]
  exacts [.refl s, (RoutePath.elapse n s).trans (h _)]

/-- An event that takes place outside the Route Engine. -/
theorem RoutePath.afterSide {f : State → State} {w : Option Nat} {s : State} (h : ∀ u, (f u).routes.tables = u.routes.tables) :
    RoutePath s (s.after w f) := .after (fun u => .side (h u)) w s

theorem RoutePath.request {code : Nat} {ok : Bool} {allowed : Mode → Bool} {act : State → State} {s : State}
    (h : RoutePath s (act s)) : RoutePath s (s.request code ok allowed act) := by
  rcases State.request_cases code ok allowed act s with e | ⟨st, e⟩ | ⟨-, -, -, -, -, e⟩ <;> rw [e]
  exacts [.refl s, .of_eq rfl, h]

/-- An event that comes about under a condition. -/
theorem RoutePath.when {c : Prop} [Decidable c] {s t : State} (h : RoutePath s t) : RoutePath s (if c then t else s) := by
  split
  exacts [h, .refl s]

/-! ## Operations outside the Route Engine -/

@[simp] theorem State.choose_routes (l : LineId) (s : State) : (s.choose l).routes = s.routes := by
  rw [State.choose_frame]

@[simp] theorem State.transmit_routes (l : LineId) (s : State) : (s.transmit l).routes = s.routes := by
  rw [State.transmit_frame]

@[simp] theorem State.offer_routes (b : Body) (refresh prompt : Bool) (s : State) : (s.offer b refresh prompt).routes = s.routes := by
  rw [State.offer_frame]

@[simp] theorem State.beaconIndication_routes (s : State) : s.beaconIndication.routes = s.routes := by
  rw [State.beaconIndication_frame]

@[simp] theorem State.inboundOffer_routes (f : InFrame) (s : State) : (s.inboundOffer f).routes = s.routes := by
  rw [State.inboundOffer_frame]

@[simp] theorem State.timeEvent_routes (o : TimeOut) (s : State) : (s.timeEvent o).routes = s.routes := by
  rw [State.timeEvent_frame]

@[simp] theorem State.offerOwn_routes (s : State) : s.offerOwn.routes = s.routes := by
  simp [State.offerOwn]

theorem State.afterGap_routes (l : LineId) (draw : Nat) (s : State) : (s.afterGap l draw).routes = s.routes := by
  unfold State.afterGap
  split
  · split <;> simp
  · split
    · split <;> simp
    · split <;> simp
    · rfl
    · rfl

theorem State.goBusy_routes (l : LineId) (s : State) : (s.goBusy l).routes = s.routes := by
  unfold State.goBusy
  dsimp only
  split
  · split <;> simp
  · simp

theorem State.countDone_routes (l : LineId) (s : State) : (s.countDone l).routes = s.routes := by
  unfold State.countDone
  split
  · simp
  · split <;> simp

theorem State.collide_routes (l : LineId) (s : State) : (s.collide l).routes = s.routes := by
  unfold State.collide
  dsimp only
  split <;> simp

theorem State.enterDown_routes (l : LineId) (s : State) : (s.enterDown l).routes = s.routes := State.setLine_routes ..

theorem State.sentOn_routes (l : LineId) (s : State) : (s.sentOn l).routes = s.routes := State.setLine_routes ..

theorem State.enterStuck_routes (l : LineId) (s : State) : (s.enterStuck l).routes = s.routes := State.setLine_routes ..

theorem State.sortFrame_routes (f : RawFrame) (arrival : Stamp) (s : State) : (s.sortFrame f arrival).routes = s.routes := by
  unfold State.sortFrame
  split
  · rfl
  split
  · rfl
  split
  · rfl
  dsimp only
  split <;> simp

theorem State.announce_routes (r : SessionRecord) (s : State) : (s.announce r).routes = s.routes := by
  unfold State.announce
  dsimp only
  split
  · simp
  · split <;> simp

theorem State.mergePost_routes (r : SessionRecord) (s : State) : (s.mergePost r).routes = s.routes := by
  unfold State.mergePost
  dsimp only
  split
  exacts [State.announce_routes r _, rfl]

theorem State.takeReadSession_routes (body : List Byte) (s : State) : (s.takeReadSession body).routes = s.routes := by
  unfold State.takeReadSession
  split
  · split <;> rfl
  · rfl

theorem State.takeReadRoute_routes (room : Nat) (s : State) : (s.takeReadRoute room).routes = s.routes := by
  unfold State.takeReadRoute
  split <;> rfl

theorem State.readPlate_routes (s : State) : s.readPlate.routes = s.routes := by
  unfold State.readPlate
  split <;> rfl

/-! ## Operations on the Route Engine -/

/-- R101: a job done or gone on with. -/
theorem RoutePath.doJob (job : Job) (upTo : Option Nat) (s : State) : RoutePath s (s.doJob job upTo) :=
  .when (.single (.job s.settings s.zones.aggClosed job upTo s.routes))

/-- R115, R116: a prompt frame built. -/
theorem RoutePath.buildPrompt (s : State) : RoutePath s s.buildPrompt := by
  refine .single ?_
  simp only [State.buildPrompt, State.offer_routes]
  exact .prompt _ _ s.routes

/-- R113: a round that goes on, or has finished, moves nothing but itself. -/
@[simp] theorem RouteEngine.roundGoesOn_tables (e : RouteEngine) : e.roundGoesOn.tables = e.tables := rfl

@[simp] theorem RouteEngine.roundOffered_tables (taken : Bool) (rooms : List Nat) (e : RouteEngine) :
    (e.roundOffered taken rooms).tables = e.tables := by cases taken <;> rfl

/-- R113, R114: a round frame built. -/
theorem State.buildRound_tables (s : State) : s.buildRound.routes.tables = s.routes.tables := by
  unfold State.buildRound
  dsimp only
  split
  · rfl
  · simp

/-- R110: a report of CLOSED sets a waiting recomputation at most. -/
theorem State.withZones_tables (z : ConditionList) (s : State) : (s.withZones z).routes.tables = s.routes.tables := by
  have hreported : ∀ closed : ZoneVec, (s.routes.closedReported s.settings closed).tables = s.routes.tables := fun closed => by
    rcases RouteEngine.closedReported_cases s.settings closed s.routes with h | h <;> rw [h]
    rfl
  have hroutes : (s.withZones z).routes = if z.closedOr = s.zones.aggClosed then s.routes
      else s.routes.closedReported s.settings z.closedOr := by
    unfold State.withZones
    dsimp only
    split <;> rfl
  rw [hroutes]
  split
  exacts [rfl, hreported _]

/-- R138, R147: the end of a pass sends a new pin set at most. -/
theorem RoutePath.endPass (p : Pass) (s : State) : RoutePath s (s.endPass p) := by
  unfold State.endPass
  split
  · exact .of_eq rfl
  · exact .single (.pins s.settings p s.composer.pinSet s.routes)

/-! ## Every command -/

/-- Every command but RESET_N_RELEASE answers a next state, and changes the Route Engine by these parts. -/
theorem exec_routePath (c : Instr) (s : State) (hrelease : ∀ x d, c ≠ .resetNRelease x d) :
    ∃ t, exec c s = .next t ∧ RoutePath s t := by
  have setLine (l : LineId) (x : Line) (u : State) : RoutePath u (u.setLine l x) := .of_eq (State.setLine_routes ..)
  have same {f : State → State} (h : ∀ u, (f u).routes = u.routes) (u : State) : (f u).routes.tables = u.routes.tables :=
    congrArg _ (h u)
  cases c with
  | resetNRelease x d => exact absurd rfl (hrelease x d)
  | resetNAssert => exact ⟨_, rfl, .single (.reset _)⟩
  | lineIdleGap l draw =>
    exact ⟨_, rfl, .when ((setLine l _ s).trans (.afterSide (same (State.afterGap_routes l draw))))⟩
  | lineBusy l => exact ⟨_, rfl, .when (.of_eq (State.goBusy_routes l s))⟩
  | backoffExpiry l => exact ⟨_, rfl, .afterSide (same (State.countDone_routes l))⟩
  | echoFailure l =>
    refine ⟨_, rfl, .when ?_⟩
    split
    exacts [.of_eq (State.enterDown_routes l s), setLine l _ s]
  | collision l => exact ⟨_, rfl, .when (.of_eq (State.collide_routes l s))⟩
  | frameSent l => exact ⟨_, rfl, .afterSide (same (State.sentOn_routes l))⟩
  | carrierStuck l =>
    refine ⟨_, rfl, ?_⟩
    split
    exacts [(setLine l _ s).trans (.afterSide (same (State.enterStuck_routes l))), .refl s]
  | stuckLineRecovery l => exact ⟨_, rfl, .when ((setLine l _ s).trans (.after (fun u => setLine l _ u) _ _))⟩
  | startDelimiter l =>
    refine ⟨_, rfl, .when (.trans ?_ (setLine l _ _))⟩
    split
    exacts [.refl s, .of_eq (State.goBusy_routes l s)]
  | frameEnd l bytes =>
    refine ⟨_, rfl, ?_⟩
    split
    · dsimp only
      split
      exacts [(setLine l _ s).trans (.of_eq (State.sortFrame_routes _ _ _)), setLine l _ s]
    · exact .refl s
  | beaconHandover =>
    refine ⟨_, rfl, .of_eq ?_⟩
    split
    · split
      exacts [State.timeEvent_routes _ _, rfl]
    · rfl
  | roundEnd => exact ⟨_, rfl, .afterSide fun u => congrArg _ (State.timeEvent_routes _ u)⟩
  | beaconTimerExpiry =>
    exact ⟨_, rfl, .afterSide fun u => congrArg _ (State.beaconIndication_routes { u with time := _ })⟩
  | setTime body =>
    refine ⟨_, rfl, .request (.of_eq ?_)⟩
    split
    · split
      exacts [(State.beaconIndication_routes _).trans (State.timeEvent_routes _ s), rfl]
    · rfl
  | inboundMerge =>
    refine ⟨_, rfl, .of_eq ?_⟩
    split
    · split <;> rfl
    · rfl
  | postingBufferMerge =>
    refine ⟨_, rfl, ?_⟩
    split
    · refine .when (.of_eq ?_)
      split
      exacts [State.mergePost_routes _ s, rfl]
    · exact .refl s
  | housekeepingRemoval =>
    refine ⟨_, rfl, ?_⟩
    split
    · refine .when (.of_eq ?_)
      split <;> rfl
    · exact .refl s
  | refreshScanGrant =>
    refine ⟨_, rfl, ?_⟩
    split
    · refine .when (.of_eq ?_)
      dsimp only
      split
      · split
        exacts [State.offer_routes _ _ _ _, rfl]
      · rfl
    · exact .refl s
  | composerSessionRead => exact ⟨_, rfl, .when (.of_eq rfl)⟩
  | localPortSessionRead =>
    refine ⟨_, rfl, .when (.of_eq ?_)⟩
    split
    · split <;> rfl
    · rfl
  | advertHandover =>
    refine ⟨_, rfl, ?_⟩
    split
    · split
      exacts [.when (.side rfl), .refl s]
    · exact .refl s
  | advertJob | conditionRecomputation | pinSetUpdate | sweep => exact ⟨_, rfl, .doJob _ _ s⟩
  | frameBuilding =>
    refine ⟨_, rfl, .when ?_⟩
    split
    exacts [.buildPrompt s, .side (State.buildRound_tables s)]
  | roundRetry =>
    refine ⟨_, rfl, .afterSide fun u => ?_⟩
    dsimp only
    split
    exacts [State.buildRound_tables _, rfl]
  | composerRouteRead => exact ⟨_, rfl, .of_eq (by split <;> rfl)⟩
  | localPortRouteRead =>
    refine ⟨_, rfl, .of_eq ?_⟩
    split
    · split <;> rfl
    · rfl
  | conditionHandover =>
    refine ⟨_, rfl, ?_⟩
    split
    · split
      exacts [.side (State.withZones_tables _ _), .refl s]
    · exact .refl s
  | contributionExpiry | spillClear => exact ⟨_, rfl, .afterSide fun u => State.withZones_tables _ u⟩
  | postZones body =>
    refine ⟨_, rfl, .request ?_⟩
    split
    exacts [.side ((congrArg _ (State.offerOwn_routes _)).trans (State.withZones_tables _ s)), .refl s]
  | ownFrameRetry | ownFrameResend => exact ⟨_, rfl, .afterSide (same State.offerOwn_routes)⟩
  | passEnd =>
    refine ⟨_, rfl, ?_⟩
    split
    exacts [.when (.endPass _ s), .refl s]
  | duplicateEntryExpiry | minuteEvent | refreshDue | tombstoneExpiry | sweepTimerExpiry | roundDue | promptDue
  | validUntilReached | panelIntervalExpiry | plateClockedOut | ackTimeout | busyTimeout | faultTimerExpiry =>
    exact ⟨_, rfl, .afterSide fun _ => rfl⟩
  | panelAck busy => exact ⟨_, rfl, .of_eq (by split <;> rfl)⟩
  | panelBusyFall | panelHoldFall | panelHoldRise | pgmSupplyFall => exact ⟨_, rfl, .of_eq rfl⟩
  | readStatus | lineRestart | postSession => exact ⟨_, rfl, .request (.of_eq rfl)⟩
  | ackNotices | setAttentionEnables | clearAttentionEnables =>
    exact ⟨_, rfl, .request (.of_eq (by split <;> rfl))⟩
  | readPlate => exact ⟨_, rfl, .request (.of_eq (State.readPlate_routes s))⟩
  | readSessionByIndex body | readSessionNextChanged body =>
    exact ⟨_, rfl, .request (.of_eq (State.takeReadSession_routes body s))⟩
  | readRoute body =>
    refine ⟨_, rfl, .request ?_⟩
    split
    exacts [.of_eq (State.takeReadRoute_routes _ s), .refl s]
  | programWord body supply =>
    have level : RoutePath s (s.supplyLevel supply) := .of_eq rfl
    refine ⟨_, rfl, level.trans (.request (.of_eq ?_))⟩
    split
    exacts [by rw [State.judgeProgram_frame], rfl]
  | programCycleEnd => exact ⟨_, rfl, .afterSide fun u => by rw [State.endCycle_frame]⟩
  | verifyWord body supply =>
    have level : RoutePath s (s.supplyLevel supply) := .of_eq rfl
    refine ⟨_, rfl, level.trans (.request (.of_eq ?_))⟩
    split
    exacts [by rw [State.judgeVerify_frame], rfl]
  | requestCodeNamesNoRequest code body => exact ⟨_, rfl, .when (.request (.refl s))⟩

/-! ## Steps -/

/-- RESET_N_RELEASE leaves the Route Engine alone unless the station enters RUN (R119, R166, R167). -/
theorem State.start_routes (s : State) :
    s.start.routes = s.routes ∨ s.start.routes = (s.routes.enterRun (readSettings (otpRead s.otp))).eng := by
  unfold State.start
  split
  · exact .inl rfl
  · split
    exacts [.inl rfl, .inr rfl]

/-- What a step can do to the Route Engine: the entry to RUN, from START, or a chain of parts. -/
theorem step_routes {s t : State} (h : step s = .next t) :
    (s.mode = .start ∧ t.routes = (s.routes.enterRun (readSettings (otpRead s.otp))).eng) ∨ RoutePath s t := by
  rcases step_origin h with ⟨c, p, h⟩ | ⟨job, rfl⟩ | rfl
  · by_cases hrelease : ∃ x d, c = .resetNRelease x d
    · obtain ⟨x, d, rfl⟩ := hrelease
      obtain rfl := Host.Outcome.next.inj h
      split
      · rcases State.start_routes (State.sample x d { s with pending := p }) with e | e
        exacts [.inr (.of_eq e), .inl ⟨‹_›, e⟩]
      · exact .inr (.of_eq rfl)
    · obtain ⟨u, hu, hpath⟩ := exec_routePath c { s with pending := p } fun x d e => hrelease ⟨x, d, e⟩
      obtain rfl := Host.Outcome.next.inj (hu.symm.trans h)
      exact .inr (RoutePath.trans (t := { s with pending := p }) (.of_eq rfl) hpath)
  · exact .inr (.doJob job _ s)
  · exact .inr (.elapse 1 s)

end Sys2Proof.Machine
end

section
/-! PROOFS. The LEVEL best never ranks below the ANY best (O38): a fresh entry's bests are UNKNOWN, reconciliation puts those of a
recomputed entry in order, and nothing else moves an entry's bests. -/

namespace Sys2Proof.Machine

/-! ## The invariant over the operations on the table -/

/-- R95: no entry's LEVEL best ranks better than its ANY best. -/
def RouteEngine.LevelBelow (e : RouteEngine) : Prop := ∀ x ∈ e.entries, x.level.cost.better x.any.cost = false

/-- R95: reconciliation puts the bests in order. -/
theorem RouteEntry.recomputed_levelBelow (st : Settings) (closed : ZoneVec) (x : RouteEntry) :
    (x.recomputed st closed).level.cost.better (x.recomputed st closed).any.cost = false := by
  rcases x.recomputed_cases st closed with ⟨-, e⟩ | ⟨h, e⟩ <;> rw [e]
  exacts [Cost.better_self _, h]

/-- Placing an entry adds no other one. -/
theorem mem_of_mem_putEntry {x y : RouteEntry} {l : List RouteEntry} (h : y ∈ putEntry x l) : y = x ∨ y ∈ l := by
  induction l with
  | nil => exact .inl (List.mem_singleton.1 h)
  | cons z l ih =>
    unfold putEntry at h
    split at h
    · exact List.mem_cons.1 h
    · split at h <;> rcases List.mem_cons.1 h with rfl | h
      · exact .inl rfl
      · exact .inr (List.mem_cons_of_mem z h)
      · exact .inr List.mem_cons_self
      · exact (ih h).imp_right (List.mem_cons_of_mem z)

/-- The entry found for a room is one of the table. -/
theorem RouteEngine.mem_of_entry {e : RouteEngine} {room : Nat} {x : RouteEntry} (h : e.entry room = some x) : x ∈ e.entries :=
  List.mem_of_find?_eq_some h

/-- What leaves the table as it is. -/
theorem RouteEngine.LevelBelow.of_eq {e f : RouteEngine} (he : e.LevelBelow) (h : f.entries = e.entries) : f.LevelBelow :=
  fun x hx => he x (h ▸ hx)

/-- What only removes entries. -/
theorem RouteEngine.LevelBelow.of_subset {e f : RouteEngine} (he : e.LevelBelow) (h : f.entries ⊆ e.entries) : f.LevelBelow :=
  fun x hx => he x (h hx)

theorem RouteEngine.LevelBelow.put {e : RouteEngine} (he : e.LevelBelow) {x : RouteEntry}
    (hx : x.level.cost.better x.any.cost = false) : (e.put x).LevelBelow := fun y hy => by
  rcases mem_of_mem_putEntry hy with rfl | hy
  exacts [hx, he y hy]

/-- R99: a new entry's bests are both UNKNOWN. -/
theorem RouteEngine.LevelBelow.create {e : RouteEngine} (he : e.LevelBelow) (st : Settings) (room : Nat) :
    (e.create st room).LevelBelow := he.put rfl

theorem RouteEngine.LevelBelow.remove {o : RouteOut} (h : o.eng.LevelBelow) (x : RouteEntry) : (o.remove x).eng.LevelBelow := by
  obtain ⟨-, -, -, -, -, hentries, -⟩ := o.remove_spec x
  exact h.of_subset (hentries ▸ List.filter_subset_self _)

/-- R95, R96: a recomputation. -/
theorem RouteEngine.LevelBelow.recompute {o : RouteOut} (h : o.eng.LevelBelow) (st : Settings) (closed : ZoneVec) (x : RouteEntry) :
    (o.recompute st closed x).eng.LevelBelow := by
  obtain ⟨n, hentries⟩ := o.recompute_entries st closed x
  exact (h.put (x := { x.recomputed st closed with changeCount := n }) (x.recomputed_levelBelow st closed)).of_eq hentries

/-! ## The invariant over the entry operations (R101) -/

/-- R102: an advert entry applied. -/
theorem RouteEngine.LevelBelow.apply {o : RouteOut} (h : o.eng.LevelBelow) (st : Settings) (closed : ZoneVec) (source heard : Nat)
    (a : AdvertEntry) : (o.apply st closed source heard a).eng.LevelBelow := by
  have htaken : (o.takeIn st closed source a).2.eng.LevelBelow := by
    unfold RouteOut.takeIn
    split
    · exact h
    split
    · exact h
    split
    · split
      exacts [h.remove _, h]
    · exact h
  unfold RouteOut.apply
  split
  · next heq => exact (heq ▸ htaken : _).recompute st closed _
  · next heq => exact (heq ▸ htaken : _)

/-- R111: an entry of a condition recomputation. -/
theorem RouteEngine.LevelBelow.recomputeRoom {o : RouteOut} (h : o.eng.LevelBelow) (st : Settings) (closed : ZoneVec) (own : Bool)
    (room : Nat) : (o.recomputeRoom st closed own room).eng.LevelBelow := by
  unfold RouteOut.recomputeRoom
  split
  · exact h
  · next x _ =>
    have hp := h.recompute st closed x
    dsimp only
    split
    · split <;> exact hp
    · exact hp

/-- R100: a pinned flag moves no best. -/
theorem RouteEngine.LevelBelow.repinRoom {o : RouteOut} (h : o.eng.LevelBelow) (st : Settings) (room : Nat) :
    (o.repinRoom st room).eng.LevelBelow := by
  unfold RouteOut.repinRoom
  split
  · next x hx => exact h.put (h x (RouteEngine.mem_of_entry hx))
  · exact h

/-- R100, R105: a room of the pin set gets an entry. -/
theorem RouteEngine.LevelBelow.createPinned {o : RouteOut} (h : o.eng.LevelBelow) (st : Settings) (room : Nat) :
    (o.createPinned st room).eng.LevelBelow := by
  unfold RouteOut.createPinned
  split
  · exact h
  split
  · exact h.create st room
  split
  exacts [(h.remove _).create st room, h]

/-- R108, R109: an entry of a sweep. -/
theorem RouteEngine.LevelBelow.sweepRoom {o : RouteOut} (h : o.eng.LevelBelow) (st : Settings) (closed : ZoneVec)
    (moment room : Nat) : (o.sweepRoom st closed moment room).eng.LevelBelow := by
  unfold RouteOut.sweepRoom
  split
  · next x _ =>
    have haged : (o.ageRoom st closed moment x).eng.LevelBelow := by
      unfold RouteOut.ageRoom
      split
      exacts [h, h.recompute st closed _]
    unfold RouteOut.dropDead
    split
    · split
      exacts [haged.remove _, haged]
    · exact haged
  · exact h

theorem RouteEngine.LevelBelow.doOp {o : RouteOut} (h : o.eng.LevelBelow) (st : Settings) (closed : ZoneVec) (op : EntryOp) :
    (o.doOp st closed op).eng.LevelBelow := by
  cases op with
  | apply source heard a => exact h.apply st closed source heard a
  | recompute room own => exact h.recomputeRoom st _ own room
  | repin room => exact h.repinRoom st room
  | create room => exact h.createPinned st room
  | age room moment => exact h.sweepRoom st closed moment room

/-! ## The invariant over jobs and steps -/

/-- R101: a job taken into hand moves no entry. -/
theorem RouteEngine.takeJob_entries (st : Settings) (closed : ZoneVec) (job : Job) (e : RouteEngine) :
    (e.takeJob st closed job).entries = e.entries := by
  cases job with
  | condition | frames | sweep => rfl
  | pins | advert =>
    unfold RouteEngine.takeJob
    dsimp only
    split <;> rfl

/-- R101: a job done or gone on with. -/
theorem RouteEngine.LevelBelow.doJob {e : RouteEngine} (h : e.LevelBelow) (st : Settings) (closed : ZoneVec) (job : Job)
    (upTo : Option Nat) : (e.doJob st closed job upTo).eng.LevelBelow := by
  refine RouteEngine.goOn_keeps (·.eng.LevelBelow) st closed (fun _ op ho => ho.doOp st closed op) (fun _ _ _ ho => ho) upTo ?_
  show RouteEngine.LevelBelow _
  split
  exacts [h, h.of_eq (e.takeJob_entries st closed job)]

/-- R119: the entries that the entry to RUN creates, and the home room's recomputed. -/
theorem RouteEngine.LevelBelow.enterRun {e : RouteEngine} (h : e.LevelBelow) (st : Settings) : (e.enterRun st).eng.LevelBelow := by
  have hcreate : ∀ (rooms : List Nat) (f : RouteEngine), f.LevelBelow → (rooms.foldl (fun f r => f.create st r) f).LevelBelow := by
    intro rooms
    induction rooms with
    | nil => exact fun f hf => hf
    | cons r rooms ih => exact fun f hf => ih _ (hf.create st r)
  unfold RouteEngine.enterRun
  dsimp only
  generalize hmade : st.directory.foldl _ _ = f
  have hf : f.LevelBelow := by
    rw [← hmade]
    refine hcreate _ _ ?_
    split
    exacts [h, RouteEngine.LevelBelow.create (e := { e with nextRound := _, nextSweep := _ }) h st _]
  split
  · split
    exacts [hf, RouteEngine.LevelBelow.recompute (o := f.work) hf st _ _]
  · exact hf

/-- Every change of the Route Engine but the entry to RUN keeps the invariant. -/
theorem RouteChange.keepsLevelBelow {e f : RouteEngine} (h : RouteChange e f) (he : e.LevelBelow) : f.LevelBelow := by
  cases h with
  | side h =>
    have hentries := congrArg RouteEngine.entries h
    exact he.of_eq hentries
  | reset => exact fun x hx => absurd hx List.not_mem_nil
  | job st closed job upTo => exact he.doJob st closed job upTo
  | prompt taken rooms => cases taken <;> exact he
  | pins st p old =>
    unfold RouteEngine.sendPins
    split <;> exact he

/-- R95: over every step. -/
theorem step_keepsLevelBelowAny {s t : State} (hs : LevelBelowAny s) (h : step s = .next t) : LevelBelowAny t := by
  have hs : s.routes.LevelBelow := hs
  rcases step_routes h with ⟨-, e⟩ | hpath
  · exact (hs.enterRun _).of_eq (congrArg _ e)
  · exact hpath.keeps (p := RouteEngine.LevelBelow) RouteChange.keepsLevelBelow hs

/-- Settles O38. -/
theorem levelNeverRanksBelowAny : Obligations.LevelNeverRanksBelowAny := by
  refine ⟨fun st closed x => ⟨rfl, fun h => ?_, fun h => ?_⟩, fun _ _ => step_keepsLevelBelowAny⟩
  · exact if_pos h
  · exact if_neg (by rw [h]; exact Bool.false_ne_true)

end Sys2Proof.Machine
end

section
/-! PROOFS. Prompt and round frames are built and offered (O44). -/

namespace Sys2Proof.Machine

/-! ## Offers and the Route Engine -/

/-- An offer neither reads nor moves the Route Engine. -/
theorem State.offer_setRoutes (e : RouteEngine) (b : Body) (refresh prompt : Bool) (s : State) :
    State.offer b refresh prompt { s with routes := e } = { s.offer b refresh prompt with routes := e } := by
  have hdecision : State.offerDecision b { s with routes := e } = s.offerDecision b := rfl
  unfold State.offer
  rw [hdecision]
  cases s.offerDecision b <;> rfl

/-! ## Prompt frames (R112, R115, R116) -/

/-- R115: a prompt frame taken takes its rooms out of the prompt set. -/
theorem State.buildPrompt_taken {s : State} (h : s.takes (s.advertBody (s.routes.promptSet.take 20)) = true) :
    let left := s.routes.promptSet.filter fun r => !(s.routes.promptSet.take 20).contains r
    s.buildPrompt = { s.offer (s.advertBody (s.routes.promptSet.take 20)) false true with
      routes := { s.routes with promptSet := left, promptDue := !left.isEmpty } } := by
  simp only [State.buildPrompt, State.offer_routes, h, RouteEngine.promptOffered, if_true]

/-- R116: a refused one is due again after 1 s. -/
theorem State.buildPrompt_refused {s : State} (h : s.takes (s.advertBody (s.routes.promptSet.take 20)) = false) :
    s.buildPrompt = { s with routes := { s.routes with promptDue := false, promptAt := some (s.routes.clock + 1000000) } } := by
  simp only [State.buildPrompt, State.offer_refused h, h]
  rfl

/-- R101: a due prompt frame is built before a round frame. -/
theorem exec_frameBuilding_prompt {s : State} (hnext : s.nextJob = some .frames) (hwaits : s.routes.promptWaits = true) :
    exec .frameBuilding s = .next s.buildPrompt := by
  show execFrameBuilding s = _
  rw [execFrameBuilding, if_pos hnext, if_pos hwaits]

/-! ## Round frames (R112 to R114) -/

/-- The rooms that the next round frame lists with the cursor at a room (R113). -/
def RouteEngine.roundRoomsAt (cursor : Nat) (e : RouteEngine) : List Nat := { e with cursor := cursor }.roundRooms

/-- The state with its round standing elsewhere. -/
def State.atRound (x : RoundState) (s : State) : State := { s with routes := { s.routes with round := x } }

/-- R113: a round with no room left to list has finished, wherever it stood. -/
theorem State.buildRound_finished {s : State} (h : s.routes.roundRoomsAt s.routes.cursor = []) (x : RoundState) :
    (s.atRound x).buildRound = s.atRound .idle := by
  have hrooms : (s.atRound x).routes.roundRooms = [] := h
  rw [State.buildRound, hrooms]
  rfl

/-- R113: the round goes on, or has finished. -/
theorem RouteEngine.roundGoesOn_eq (e : RouteEngine) :
    e.roundGoesOn = { e with round := if e.roundRooms = [] then .idle else .due } := by
  simp only [RouteEngine.roundGoesOn, List.isEmpty_iff]

/-- R113: a round frame taken moves the cursor past its last room, and the round goes on or has finished. -/
theorem State.buildRound_taken {s : State} {rooms : List Nat} (hrooms : s.routes.roundRoomsAt s.routes.cursor = rooms)
    (hne : rooms ≠ []) (h : s.takes (s.advertBody rooms) = true) (x : RoundState) :
    let next := rooms.getLastD 0 + 1
    (s.atRound x).buildRound = { s.offer (s.advertBody rooms) false false with
      routes := { s.routes with cursor := next, round := if s.routes.roundRoomsAt next = [] then .idle else .due } } := by
  have hrooms : (s.atRound x).routes.roundRooms = rooms := hrooms
  have htakes : (s.atRound x).takes ((s.atRound x).advertBody rooms) = true := h
  have hoffer : (s.atRound x).offer ((s.atRound x).advertBody rooms) false false =
      { s.offer (s.advertBody rooms) false false with routes := (s.atRound x).routes } := State.offer_setRoutes ..
  simp only [State.buildRound, hrooms, htakes, List.isEmpty_iff, hne, if_false, hoffer, RouteEngine.roundOffered, if_true,
    RouteEngine.roundGoesOn_eq]
  rfl

/-- R114: a refused one is due again after 1 s. -/
theorem State.buildRound_refused {s : State} {rooms : List Nat} (hrooms : s.routes.roundRoomsAt s.routes.cursor = rooms)
    (hne : rooms ≠ []) (h : s.takes (s.advertBody rooms) = false) (x : RoundState) :
    (s.atRound x).buildRound = s.atRound (.retryAt (s.routes.clock + 1000000)) := by
  have hrooms : (s.atRound x).routes.roundRooms = rooms := hrooms
  have htakes : (s.atRound x).takes ((s.atRound x).advertBody rooms) = false := h
  simp only [State.buildRound, hrooms, htakes, List.isEmpty_iff, hne, if_false, State.offer_refused htakes]
  rfl

/-- R101, R113: with no prompt frame due a round frame is built. -/
theorem exec_frameBuilding_round {s : State} (hnext : s.nextJob = some .frames) (hwaits : ¬s.routes.promptWaits = true) :
    exec .frameBuilding s = .next s.buildRound := by
  show execFrameBuilding s = _
  rw [execFrameBuilding, if_pos hnext, if_neg hwaits]

/-- R114: at its retry time a round frame is due again, and built where it is the job to be done now (R101). -/
theorem exec_roundRetry {s : State} {r : Nat} (hround : s.routes.round = .retryAt r) (hr : r ≤ s.routes.clock) :
    exec .roundRetry s = .next (if (s.atRound .due).nextJob = some .frames && !s.routes.promptWaits
      then (s.atRound .due).buildRound else s.atRound .due) := by
  have hwait : s.routes.retryWait = some 0 := by simp only [RouteEngine.retryWait, hround, Nat.sub_eq_zero_of_le hr]
  show execRoundRetry s = _
  rw [execRoundRetry, hwait, State.after_due]
  rfl

/-- Settles O44. -/
theorem advertFramesAreBuiltAndOffered : Obligations.AdvertFramesAreBuiltAndOffered := by
  intro s value values known listed
  have hvalues : ∀ rooms, values rooms = s.advertBody rooms := fun rooms =>
    congrArg Body.advert (List.map_congr_left fun room _ => by
      unfold RouteEngine.advertOf
      cases s.routes.entry room <;> rfl)
  have hlisted : ∀ cursor, listed cursor = s.routes.roundRoomsAt cursor := fun _ => rfl
  clear_value values listed
  refine ⟨fun hnext hdue hset => ?_, fun r hround hr hnot => ?_, fun hnone c hc => ?_⟩
  · have hexec := exec_frameBuilding_prompt hnext (s.routes.promptWaits_iff.2 ⟨hdue, hset⟩)
    dsimp only
    rw [hvalues, hexec]
    exact ⟨fun h => congrArg _ (State.buildPrompt_taken h), fun h => congrArg _ (State.buildPrompt_refused h)⟩
  · rw [exec_roundRetry hround hr, if_neg]
    · rfl
    · rw [Bool.and_eq_true, decide_eq_true_eq, Bool.not_eq_true']
      rintro ⟨hframes, hwaits⟩
      exact hnot.elim (· hframes) fun h => by simp [s.routes.promptWaits_iff.2 h] at hwaits
  · have hwaits : ¬s.routes.promptWaits = true := by
      rw [RouteEngine.promptWaits_iff]
      rintro ⟨hdue, hset⟩
      exact hnone.elim (by simp [hdue]) hset
    have hexec : ∃ x, exec c s = .next (s.atRound x).buildRound := by
      rcases hc with ⟨rfl, hnext⟩ | ⟨rfl, ⟨r, hround, hr⟩, hnext⟩
      · exact ⟨s.routes.round, exec_frameBuilding_round hnext hwaits⟩
      · exact ⟨.due, (exec_roundRetry hround hr).trans (congrArg _ (if_pos (by
          rw [Bool.and_eq_true, decide_eq_true_eq, Bool.not_eq_true', Bool.eq_false_iff]
          exact ⟨hnext, hwaits⟩)))⟩
    obtain ⟨x, hexec⟩ := hexec
    dsimp only
    rw [hexec, hlisted, hlisted, hvalues]
    exact ⟨fun h => congrArg _ (State.buildRound_finished h x), fun hne =>
      ⟨fun h => congrArg _ (State.buildRound_taken rfl hne h x), fun h => congrArg _ (State.buildRound_refused rfl hne h x)⟩⟩

end Sys2Proof.Machine
end

section
/-! PROOFS. What an entry operation of a condition recomputation or a sweep makes of its entry, and what a row of such operations makes
of the table (R92, R96, R106 to R109, R111, R115). -/

namespace Sys2Proof.Machine

/-! ## Entries in room order -/

/-- The Route Table's order (R99). -/
abbrev InRoomOrder (l : List RouteEntry) : Prop := (l.map (·.room)).Pairwise (· < ·)

section
variable {before after : List RouteEntry} {x : RouteEntry}

/-- What stands before an entry is of a lower room, and what stands after it of a higher one. -/
theorem InRoomOrder.around (h : InRoomOrder (before ++ x :: after)) :
    (∀ y ∈ before, y.room < x.room) ∧ ∀ y ∈ after, x.room < y.room := by
  rw [InRoomOrder, List.pairwise_map, List.pairwise_append, List.pairwise_cons] at h
  obtain ⟨-, ⟨hafter, -⟩, hbefore⟩ := h
  exact ⟨fun y hy => hbefore y hy x (by simp), hafter⟩

/-- An entry replaced by one of its room leaves the table in order. -/
theorem InRoomOrder.put (h : InRoomOrder (before ++ x :: after)) {z : RouteEntry} (hz : z.room = x.room) :
    InRoomOrder (before ++ z :: after) := by
  simpa [InRoomOrder, hz] using h

/-- An entry replaced by one of its room, or removed, leaves the table in order. -/
theorem InRoomOrder.replace (h : InRoomOrder (before ++ x :: after)) {left : Option RouteEntry}
    (hroom : ∀ y, left = some y → y.room = x.room) : InRoomOrder (before ++ left.toList ++ after) := by
  cases left with
  | none =>
    refine h.sublist (List.Sublist.map _ ?_)
    simp
  | some y =>
    have hy := hroom y rfl
    simpa [InRoomOrder, hy] using h

/-- An entry placed takes the place of its room's. -/
theorem putEntry_split (h : InRoomOrder (before ++ x :: after)) {z : RouteEntry} (hz : z.room = x.room) :
    putEntry z (before ++ x :: after) = before ++ z :: after := by
  obtain ⟨hlow, -⟩ := h.around
  clear h
  induction before with
  | nil => simp [putEntry, hz]
  | cons y l ih =>
    obtain ⟨hy, hl⟩ := List.forall_mem_cons.1 hlow
    rw [List.cons_append, putEntry, if_neg (by omega), if_neg (by omega), ih hl]
    rfl

/-- Of entries in room order the others than one. -/
theorem filter_room_split (h : InRoomOrder (before ++ x :: after)) :
    (before ++ x :: after).filter (fun y => decide (y.room ≠ x.room)) = before ++ after := by
  obtain ⟨hlow, hhigh⟩ := h.around
  rw [List.filter_append, List.filter_cons_of_neg (by simp), List.filter_eq_self.2 fun y hy => by simpa using (hlow y hy).ne,
    List.filter_eq_self.2 fun y hy => by simpa using (hhigh y hy).ne']

/-- The entry of a room in the table. -/
theorem RouteEngine.entry_split {e : RouteEngine} (hs : e.entries = before ++ x :: after) (h : InRoomOrder e.entries) :
    e.entry x.room = some x := (RouteEngine.entry_eq_some h).2 ⟨by simp [hs], rfl⟩

end

/-! ## What work on the table tells, joins and raises -/

/-- From `o` to `p` these reports are told (R107), these rooms join the prompt set (R115) and these notices are raised (R92); of the
engine nothing changes but the entries, the prompt set and its timer. -/
structure WorkDone (told : List RouteReport) (joins raises : Nat → Prop) (o p : RouteOut) : Prop where
  reports : p.reports = o.reports ++ told
  promptSet : ∀ r, r ∈ p.eng.promptSet ↔ r ∈ o.eng.promptSet ∨ joins r
  promptAt : p.eng.promptAt =
    if o.eng.promptSet = [] ∧ p.eng.promptSet ≠ [] then some (o.eng.clock + 1000000) else o.eng.promptAt
  notices : ∀ i, p.notices.getLsbD i = true ↔ o.notices.getLsbD i = true ∨ raises i
  frame : p.eng = { o.eng with entries := p.eng.entries, promptSet := p.eng.promptSet, promptAt := p.eng.promptAt }

section
variable {told told' : List RouteReport} {joins joins' raises raises' : Nat → Prop} {o p q : RouteOut}

theorem WorkDone.refl (o : RouteOut) : WorkDone [] (fun _ => False) (fun _ => False) o o where
  reports := (List.append_nil _).symm
  promptSet := by simp
  promptAt := (if_neg fun h => h.2 h.1).symm
  notices := by simp
  frame := rfl

theorem WorkDone.congr (h : WorkDone told joins raises o p) (htold : told = told') (hjoins : ∀ r, joins r ↔ joins' r)
    (hraises : ∀ i, raises i ↔ raises' i) : WorkDone told' joins' raises' o p := by
  obtain rfl : joins = joins' := funext fun r => propext (hjoins r)
  obtain rfl : raises = raises' := funext fun i => propext (hraises i)
  exact htold ▸ h

/-- Work after work: the prompt timer starts as the set's first room joins (R115). -/
theorem WorkDone.trans (h : WorkDone told joins raises o p) (k : WorkDone told' joins' raises' p q) :
    WorkDone (told ++ told') (fun r => joins r ∨ joins' r) (fun i => raises i ∨ raises' i) o q where
  reports := by rw [k.reports, h.reports, List.append_assoc]
  promptSet r := by rw [k.promptSet, h.promptSet, or_assoc]
  promptAt := by
    have hclock : p.eng.clock = o.eng.clock := by rw [h.frame]
    have hgrow : p.eng.promptSet ≠ [] → q.eng.promptSet ≠ [] := fun hne =>
      let ⟨r, hr⟩ := List.exists_mem_of_ne_nil _ hne
      List.ne_nil_of_mem ((k.promptSet r).2 (.inl hr))
    have hstart : o.eng.promptSet ≠ [] → p.eng.promptSet ≠ [] := fun hne =>
      let ⟨r, hr⟩ := List.exists_mem_of_ne_nil _ hne
      List.ne_nil_of_mem ((h.promptSet r).2 (.inl hr))
    rw [k.promptAt, h.promptAt, hclock]
    by_cases ho : o.eng.promptSet = []
    · by_cases hp : p.eng.promptSet = []
      · simp [ho, hp]
      · simp [ho, hp, hgrow hp]
    · simp [ho, hstart ho]
  notices i := by rw [k.notices, h.notices, or_assoc]
  frame := by
    have hk := k.frame
    rw [h.frame] at hk
    exact hk

end

/-- R115: a room joins the prompt set. -/
theorem WorkDone.joinPrompt (room : Nat) (o : RouteOut) :
    WorkDone [] (· = room) (fun _ => False) o { o with eng := o.eng.joinPrompt room } := by
  obtain ⟨hmem, hne, hat, hframe⟩ := RouteEngine.joinPrompt_spec room o.eng
  exact ⟨(List.append_nil _).symm, hmem, by simpa [hne] using hat, by simp, hframe⟩

/-! ## A recomputation and a removal -/

/-- R107: the entry's recomputation leaves both bests as they are. -/
def RouteEntry.keepsBests (st : Settings) (closed : ZoneVec) (x : RouteEntry) : Bool :=
  decide ((x.recomputed st closed).any = x.any ∧ (x.recomputed st closed).level = x.level)

/-- R96, R106: the entry after its recomputation, its change count raised if a best has changed. -/
def RouteEntry.judged (st : Settings) (closed : ZoneVec) (x : RouteEntry) : RouteEntry :=
  if x.keepsBests st closed then x
  else { x.recomputed st closed with changeCount := (x.changeCount + 1) % 65536 }

/-- R107: what its recomputation reports. -/
def RouteEntry.changeTold (st : Settings) (closed : ZoneVec) (x : RouteEntry) : List RouteReport :=
  if x.keepsBests st closed then []
  else [.changed x.room (x.recomputed st closed).any (x.recomputed st closed).level]

/-- R92: the notices its candidates raise. -/
def RouteEntry.raises (st : Settings) (closed : ZoneVec) (x : RouteEntry) (i : Nat) : Prop :=
  ∃ level, ∃ k ∈ st.links, (candidate st closed level k (x.held level k.index)).notices.getLsbD i = true

section
variable {st : Settings} {closed : ZoneVec} {x y : RouteEntry}

theorem RouteEntry.keepsBests_iff : x.keepsBests st closed = true ↔
    (x.recomputed st closed).any = x.any ∧ (x.recomputed st closed).level = x.level := decide_eq_true_iff

theorem RouteEntry.recomputed_of_keepsBests (h : x.keepsBests st closed = true) : x.recomputed st closed = x := by
  obtain ⟨hany, hlevel⟩ := RouteEntry.keepsBests_iff.1 h
  have hrec : x.recomputed st closed =
    { x with any := (x.recomputed st closed).any, level := (x.recomputed st closed).level } := rfl
  rw [hrec, hany, hlevel]

theorem RouteEntry.judged_of_keepsBests (h : x.keepsBests st closed = true) : x.judged st closed = x := if_pos h

theorem RouteEntry.judged_of_changed (h : ¬x.keepsBests st closed = true) :
    x.judged st closed = { x.recomputed st closed with changeCount := (x.changeCount + 1) % 65536 } := if_neg h

/-- A recomputation gives the bests and leaves room, stored values and pinned flag. -/
theorem RouteEntry.judged_fields (st : Settings) (closed : ZoneVec) (x : RouteEntry) :
    (x.judged st closed).room = x.room ∧ (x.judged st closed).stored = x.stored ∧ (x.judged st closed).pinned = x.pinned ∧
      (x.judged st closed).any = (x.recomputed st closed).any ∧ (x.judged st closed).level = (x.recomputed st closed).level := by
  by_cases h : x.keepsBests st closed = true
  · rw [RouteEntry.judged_of_keepsBests h, RouteEntry.recomputed_of_keepsBests h]
    exact ⟨rfl, rfl, rfl, rfl, rfl⟩
  · rw [RouteEntry.judged_of_changed h]
    exact ⟨rfl, rfl, rfl, rfl, rfl⟩

@[simp] theorem RouteEntry.judged_room : (x.judged st closed).room = x.room := by
  obtain ⟨h, -⟩ := x.judged_fields st closed
  exact h

@[simp] theorem RouteEntry.judged_stored : (x.judged st closed).stored = x.stored := by
  obtain ⟨-, h, -⟩ := x.judged_fields st closed
  exact h

@[simp] theorem RouteEntry.judged_pinned : (x.judged st closed).pinned = x.pinned := by
  obtain ⟨-, -, h, -⟩ := x.judged_fields st closed
  exact h

@[simp] theorem RouteEntry.judged_any : (x.judged st closed).any = (x.recomputed st closed).any := by
  obtain ⟨-, -, -, h, -⟩ := x.judged_fields st closed
  exact h

@[simp] theorem RouteEntry.judged_level : (x.judged st closed).level = (x.recomputed st closed).level := by
  obtain ⟨-, -, -, -, h⟩ := x.judged_fields st closed
  exact h

/-- R93, R94: what is selected depends on the room and the stored values alone. -/
theorem RouteEntry.selected_congr (hroom : y.room = x.room) (hstored : y.stored = x.stored) (level : Bool) :
    y.selected st closed level = x.selected st closed level := by
  simp only [RouteEntry.selected, RouteEntry.candidates, RouteEntry.held, RouteEntry.storedFor, hroom, hstored]

/-- R96: recomputed again, a recomputed entry has the bests it has. -/
theorem RouteEntry.recomputed_judged (st : Settings) (closed : ZoneVec) (x : RouteEntry) :
    ((x.judged st closed).recomputed st closed).any = (x.judged st closed).any ∧
      ((x.judged st closed).recomputed st closed).level = (x.judged st closed).level := by
  have hsel := RouteEntry.selected_congr (st := st) (closed := closed) (x.judged_room (st := st) (closed := closed)) x.judged_stored
  rw [RouteEntry.judged_any, RouteEntry.judged_level]
  simp only [RouteEntry.recomputed, hsel, and_self]

/-- R107: a report of a recomputation names the entry's room. -/
theorem RouteEntry.changeTold_room {r : RouteReport} (h : r ∈ x.changeTold st closed) : r.room = x.room := by
  unfold RouteEntry.changeTold at h
  split at h
  · exact absurd h List.not_mem_nil
  · rw [List.mem_singleton.1 h]
    rfl

end

/-- The table after a recomputation. -/
theorem RouteOut.recompute_judged (st : Settings) (closed : ZoneVec) (x : RouteEntry) (o : RouteOut) :
    (o.recompute st closed x).eng.entries = putEntry (x.judged st closed) o.eng.entries := by
  unfold RouteOut.recompute
  dsimp only
  by_cases h : x.keepsBests st closed = true
  · rw [if_neg (by simpa [not_or] using RouteEntry.keepsBests_iff.1 h), RouteEntry.judged_of_keepsBests h,
      RouteEntry.recomputed_of_keepsBests h]
    rfl
  · rw [if_pos (by rw [RouteEntry.keepsBests_iff] at h; tauto), RouteEntry.judged_of_changed h]
    rfl

section
variable {before after : List RouteEntry} {x w : RouteEntry} {o : RouteOut}

/-- R92, R96, R106, R107, R115: a recomputation in its place. -/
theorem RouteOut.recompute_at (hs : o.eng.entries = before ++ w :: after) (h : InRoomOrder o.eng.entries)
    (hroom : x.room = w.room) (st : Settings) (closed : ZoneVec) :
    (o.recompute st closed x).eng.entries = before ++ x.judged st closed :: after ∧
      WorkDone (x.changeTold st closed) (fun r => r = x.room ∧ ¬x.keepsBests st closed = true) (x.raises st closed) o
        (o.recompute st closed x) := by
  obtain ⟨hsame, hnew, hset, hat, hnotices, -, -, hframe⟩ := o.recompute_spec st closed x h
  refine ⟨?_, ?_, ?_, hat, hnotices, hframe⟩
  · rw [RouteOut.recompute_judged, hs, putEntry_split (hs ▸ h) (by simpa using hroom)]
  · by_cases hk : x.keepsBests st closed = true
    · obtain ⟨-, hreports⟩ := hsame (RouteEntry.keepsBests_iff.1 hk)
      rw [hreports, RouteEntry.changeTold, if_pos hk, List.append_nil]
    · obtain ⟨-, hreports⟩ := hnew (mt RouteEntry.keepsBests_iff.2 hk)
      rw [hreports, RouteEntry.changeTold, if_neg hk]
  · simpa only [RouteEntry.keepsBests_iff] using hset

/-- R107, R109, R115: a removal in its place. -/
theorem RouteOut.remove_at (hs : o.eng.entries = before ++ x :: after) (h : InRoomOrder o.eng.entries) :
    (o.remove x).eng.entries = before ++ after ∧
      WorkDone [.removed x.room] (fun r => r = x.room ∧ (x.any.cost ≠ .unknown ∨ x.level.cost ≠ .unknown)) (fun _ => False) o
        (o.remove x) := by
  obtain ⟨-, hreports, hnotices, hset, hat, hentries, hframe⟩ := o.remove_spec x
  refine ⟨?_, hreports, hset, hat, fun i => by rw [hnotices, or_false], hframe⟩
  rw [hentries, hs, filter_room_split (hs ▸ h)]

end

/-! ## Entry operations -/

/-- What an entry operation makes of its entry: what is left of it, what is reported, whether the room joins the prompt set, and the
notices raised. -/
structure EntryEffect where
  left : Option RouteEntry
  told : List RouteReport
  joins : Prop
  raises : Nat → Prop

/-- From `o` to `p` the effect has come about at an entry between others. -/
structure EntryEffect.Done (f : EntryEffect) (before : List RouteEntry) (x : RouteEntry) (after : List RouteEntry)
    (o p : RouteOut) : Prop where
  entries : p.eng.entries = before ++ f.left.toList ++ after
  work : WorkDone f.told (fun r => r = x.room ∧ f.joins) f.raises o p

section
variable {f : EntryEffect} {before after : List RouteEntry} {x : RouteEntry} {o p : RouteOut}

/-- The room's entry is what is left of it. -/
theorem EntryEffect.Done.entry_same (h : f.Done before x after o p) (horder : InRoomOrder (before ++ x :: after))
    (hroom : ∀ y, f.left = some y → y.room = x.room) : p.eng.entry x.room = f.left := by
  have hp : InRoomOrder p.eng.entries := h.entries ▸ horder.replace hroom
  obtain ⟨hlow, hhigh⟩ := horder.around
  cases hleft : f.left with
  | some y =>
    rw [← hroom y hleft]
    exact RouteEngine.entry_split (before := before) (after := after) (by simp [h.entries, hleft]) hp
  | none =>
    refine List.find?_eq_none.2 fun y hy => ?_
    rw [h.entries, hleft] at hy
    rcases List.mem_append.1 hy with hy | hy
    · simpa using (hlow y (by simpa using hy)).ne
    · simpa using (hhigh y hy).ne'

/-- Every other room keeps its own. -/
theorem EntryEffect.Done.entry_other (h : f.Done before x after o p) (hs : o.eng.entries = before ++ x :: after)
    (hroom : ∀ y, f.left = some y → y.room = x.room) {r : Nat} (hr : r ≠ x.room) : p.eng.entry r = o.eng.entry r := by
  have hx : (decide (x.room = r)) = false := decide_eq_false (Ne.symm hr)
  unfold RouteEngine.entry
  rw [h.entries, hs]
  cases hleft : f.left with
  | none => simp [List.find?_append, hx]
  | some y =>
    have hy : (decide (y.room = r)) = false := by rw [hroom y hleft, hx]
    simp [List.find?_append, hx, hy]

end

/-- R111: one of the entry's bests is finite. -/
def RouteEntry.hasFinite (x : RouteEntry) : Prop := (∃ m h, x.any.cost = .finite m h) ∨ ∃ m h, x.level.cost = .finite m h

/-- R111: what an entry's part in a condition recomputation comes to; `own`: the own zone's bit has changed. -/
def RouteEntry.recomputeEffect (st : Settings) (closed : ZoneVec) (own : Bool) (x : RouteEntry) : EntryEffect where
  left := some (x.judged st closed)
  told := x.changeTold st closed
  joins := ¬x.keepsBests st closed = true ∨ (own = true ∧ (x.recomputed st closed).hasFinite)
  raises := x.raises st closed

/-- R108: the entry has a value heard 100 s or more before the moment. -/
def RouteEntry.loses (moment : Nat) (x : RouteEntry) : Bool := x.stored.any fun v => decide (v.heard + heardLimit ≤ moment)

/-- R108: the entry after its sweep, before it is removed if it is. -/
def RouteEntry.swept (st : Settings) (closed : ZoneVec) (moment : Nat) (x : RouteEntry) : RouteEntry :=
  if x.loses moment then (x.aged moment).judged st closed else x

/-- R109: the entry is removed by its sweep. -/
def RouteEntry.dies (st : Settings) (moment : Nat) (x : RouteEntry) : Bool := !x.pinned && (x.aged moment).dead st

/-- R108, R109: what an entry's part in a sweep comes to. -/
def RouteEntry.sweepEffect (st : Settings) (closed : ZoneVec) (moment : Nat) (x : RouteEntry) : EntryEffect where
  left := if x.dies st moment then none else some (x.swept st closed moment)
  told := (if x.loses moment then (x.aged moment).changeTold st closed else []) ++
    if x.dies st moment then [.removed x.room] else []
  joins := (x.loses moment = true ∧ ¬(x.aged moment).keepsBests st closed = true) ∨
    (x.dies st moment = true ∧
      ((x.swept st closed moment).any.cost ≠ .unknown ∨ (x.swept st closed moment).level.cost ≠ .unknown))
  raises i := x.loses moment = true ∧ (x.aged moment).raises st closed i

theorem Cost.classRank_eq_zero_iff (c : Cost) : c.classRank = 0 ↔ ∃ m h, c = .finite m h := by
  cases c <;> simp [Cost.classRank]

section
variable {before after : List RouteEntry} {x : RouteEntry} {o : RouteOut}

/-- R92, R96, R106, R107, R111, R115: an entry of a condition recomputation. -/
theorem RouteOut.recomputeRoom_at (hs : o.eng.entries = before ++ x :: after) (h : InRoomOrder o.eng.entries) (st : Settings)
    (closed : ZoneVec) (own : Bool) :
    (x.recomputeEffect st closed own).Done before x after o (o.recomputeRoom st closed own x.room) := by
  obtain ⟨hentries, hwork⟩ := RouteOut.recompute_at hs h rfl st closed
  have horder : InRoomOrder (o.recompute st closed x).eng.entries := hentries ▸ InRoomOrder.put (hs ▸ h) RouteEntry.judged_room
  have hentry := RouteEngine.entry_split hentries horder
  rw [RouteEntry.judged_room] at hentry
  have hfinite : (own && (decide ((x.judged st closed).any.cost.classRank = 0) ||
      decide ((x.judged st closed).level.cost.classRank = 0))) = true ↔ own = true ∧ (x.recomputed st closed).hasFinite := by
    simp only [Bool.and_eq_true, Bool.or_eq_true, decide_eq_true_eq, Cost.classRank_eq_zero_iff, RouteEntry.judged_any,
      RouteEntry.judged_level, RouteEntry.hasFinite]
  simp only [RouteOut.recomputeRoom, RouteEngine.entry_split hs h, hentry]
  split
  · next hjoin =>
    have hown := hfinite.1 hjoin
    refine ⟨hentries.trans (List.append_cons ..), (hwork.trans (.joinPrompt x.room _)).congr (List.append_nil _) (fun r => ?_)
      (fun i => or_iff_left not_false)⟩
    simp only [RouteEntry.recomputeEffect, hown, and_self, or_true, and_true]
    tauto
  · next hstay =>
    have hown := mt hfinite.2 hstay
    refine ⟨hentries.trans (List.append_cons ..), hwork.congr rfl (fun r => ?_) (fun i => Iff.rfl)⟩
    simp only [RouteEntry.recomputeEffect, hown, or_false]

/-- R108: an entry with no value of that age loses none. -/
theorem RouteEntry.aged_length_iff (moment : Nat) (x : RouteEntry) :
    (x.aged moment).stored.length = x.stored.length ↔ ¬x.loses moment = true := by
  simp only [RouteEntry.aged, RouteEntry.loses, List.length_filter_eq_length_iff, List.any_eq_true, decide_eq_true_eq,
    not_exists, not_and, not_le]

theorem RouteEntry.aged_of_not_loses {moment : Nat} (h : ¬x.loses moment = true) : x.aged moment = x := by
  have hstored : (x.aged moment).stored = x.stored :=
    List.filter_sublist.eq_of_length ((x.aged_length_iff moment).2 h)
  have haged : x.aged moment = { x with stored := (x.aged moment).stored } := rfl
  rw [haged, hstored]

/-- A sweep leaves room and pinned flag, and of the stored values the younger ones. -/
theorem RouteEntry.swept_fields (st : Settings) (closed : ZoneVec) (moment : Nat) (x : RouteEntry) :
    (x.swept st closed moment).room = x.room ∧ (x.swept st closed moment).pinned = x.pinned ∧
      (x.swept st closed moment).stored = (x.aged moment).stored := by
  unfold RouteEntry.swept
  split
  · exact ⟨RouteEntry.judged_room, RouteEntry.judged_pinned, RouteEntry.judged_stored⟩
  · next h => exact ⟨rfl, rfl, by rw [RouteEntry.aged_of_not_loses h]⟩

/-- R109: whether an entry is dead its stored values say. -/
theorem RouteEntry.dead_congr {y : RouteEntry} (h : y.stored = x.stored) (st : Settings) : y.dead st = x.dead st := by
  simp only [RouteEntry.dead, RouteEntry.storedFor, h]

/-- R108: the entry without its old values, recomputed if it has lost any. -/
theorem RouteOut.ageRoom_at (hs : o.eng.entries = before ++ x :: after) (h : InRoomOrder o.eng.entries) (st : Settings)
    (closed : ZoneVec) (moment : Nat) :
    (o.ageRoom st closed moment x).eng.entries = before ++ x.swept st closed moment :: after ∧
      WorkDone (if x.loses moment then (x.aged moment).changeTold st closed else [])
        (fun r => r = x.room ∧ x.loses moment = true ∧ ¬(x.aged moment).keepsBests st closed = true)
        (fun i => x.loses moment = true ∧ (x.aged moment).raises st closed i) o (o.ageRoom st closed moment x) := by
  unfold RouteOut.ageRoom RouteEntry.swept
  by_cases hl : x.loses moment = true
  · rw [if_neg (mt (x.aged_length_iff moment).1 (not_not.2 hl)), if_pos hl, if_pos hl]
    obtain ⟨hentries, hwork⟩ := RouteOut.recompute_at (x := x.aged moment) hs h rfl st closed
    refine ⟨hentries, hwork.congr rfl (fun r => ?_) (fun i => ?_)⟩
    · simp only [hl, true_and]
      rfl
    · simp only [hl, true_and]
  · rw [if_pos ((x.aged_length_iff moment).2 hl), if_neg hl, if_neg hl]
    refine ⟨hs, (WorkDone.refl o).congr rfl (fun r => ?_) (fun i => ?_)⟩ <;> simp [hl]

/-- R92, R106 to R109, R115: an entry of a sweep. -/
theorem RouteOut.sweepRoom_at (hs : o.eng.entries = before ++ x :: after) (h : InRoomOrder o.eng.entries) (st : Settings)
    (closed : ZoneVec) (moment : Nat) :
    (x.sweepEffect st closed moment).Done before x after o (o.sweepRoom st closed moment x.room) := by
  obtain ⟨hroom, hpinned, hstored⟩ := x.swept_fields st closed moment
  obtain ⟨hentries, hwork⟩ := RouteOut.ageRoom_at hs h st closed moment
  have horder : InRoomOrder (o.ageRoom st closed moment x).eng.entries := hentries ▸ InRoomOrder.put (hs ▸ h) hroom
  have hentry := RouteEngine.entry_split hentries horder
  rw [hroom] at hentry
  have hdies : (!(x.swept st closed moment).pinned && (x.swept st closed moment).dead st) = x.dies st moment := by
    rw [hpinned, RouteEntry.dead_congr hstored, RouteEntry.dies]
  simp only [RouteOut.sweepRoom, RouteEngine.entry_split hs h, RouteOut.dropDead, hentry, hdies]
  split
  · next hd =>
    obtain ⟨hleft, hremoved⟩ := RouteOut.remove_at hentries horder
    refine ⟨by simpa [RouteEntry.sweepEffect, hd] using hleft, (hwork.trans hremoved).congr ?_ (fun r => ?_)
      (fun i => or_iff_left not_false)⟩
    · simp only [RouteEntry.sweepEffect, hd, hroom, if_true]
    · simp only [RouteEntry.sweepEffect, hd, hroom, true_and]
      exact and_or_left.symm
  · next hd =>
    refine ⟨by simpa [RouteEntry.sweepEffect, hd] using hentries, hwork.congr ?_ (fun r => ?_) (fun i => Iff.rfl)⟩
    · simp [RouteEntry.sweepEffect, hd]
    · simp only [RouteEntry.sweepEffect, hd, Bool.false_eq_true, false_and, or_false]

end

/-! ## Rows of entry operations -/

/-- One operation for each entry of the table, each with an effect on its entry alone, comes to these effects one after the other, as
long as what the operations go by stays in force. -/
theorem foldl_entryOps {st : Settings} {closed kept : ZoneVec} {op : RouteEntry → EntryOp} {effect : RouteEntry → EntryEffect}
    (hroom : ∀ x y, (effect x).left = some y → y.room = x.room)
    (hop : ∀ (o : RouteOut) before x after, o.eng.kept = kept → o.eng.entries = before ++ x :: after →
      InRoomOrder o.eng.entries → (effect x).Done before x after o (o.doOp st closed (op x)))
    (xs before : List RouteEntry) (o : RouteOut) (hkept : o.eng.kept = kept) (hs : o.eng.entries = before ++ xs)
    (horder : InRoomOrder o.eng.entries) :
    ((xs.map op).foldl (RouteOut.doOp st closed) o).eng.entries = before ++ xs.filterMap (fun x => (effect x).left) ∧
      WorkDone (xs.flatMap fun x => (effect x).told) (fun r => ∃ x ∈ xs, r = x.room ∧ (effect x).joins)
        (fun i => ∃ x ∈ xs, (effect x).raises i) o ((xs.map op).foldl (RouteOut.doOp st closed) o) := by
  induction xs generalizing before o with
  | nil => exact ⟨hs, (WorkDone.refl o).congr rfl (by simp) (by simp)⟩
  | cons x xs ih =>
    have hdone := hop o before x xs hkept hs horder
    have hnext := (InRoomOrder.replace (hs ▸ horder) (hroom x))
    obtain ⟨hentries, hwork⟩ := ih (before ++ (effect x).left.toList) (o.doOp st closed (op x))
      (by rw [hdone.work.frame]; exact hkept) hdone.entries (hdone.entries ▸ hnext)
    refine ⟨?_, (hdone.work.trans hwork).congr (by simp) (by simp) (by simp)⟩
    rw [List.map_cons, List.foldl_cons, hentries, List.filterMap_cons]
    cases (effect x).left <;> simp

end Sys2Proof.Machine
end

section
/-! PROOFS. What a condition recomputation and a sweep leave, count, report and raise, entry by entry and whole (O43). -/

namespace Sys2Proof.Machine

/-! ## One entry -/

/-- What work that has done nothing before reports and raises. -/
theorem WorkDone.of_work {told : List RouteReport} {joins raises : Nat → Prop} {e : RouteEngine} {p : RouteOut}
    (h : WorkDone told joins raises e.work p) : p.reports = told ∧ ∀ i, p.notices.getLsbD i = true ↔ raises i :=
  ⟨h.reports, fun i => by rw [h.notices]; simp [RouteEngine.work]⟩

/-- R92, R96, R106, R107, R111, R115. -/
theorem recomputedEntryTellsOfAChange : Claims.RecomputedEntryTellsOfAChange := by
  intro st closed e room own horder work o
  refine ⟨fun hnone => ?_, fun x hx => ?_⟩
  · show work.recomputeRoom st e.kept own room = work
    simp only [RouteOut.recomputeRoom, work, hnone]
  obtain ⟨hmem, rfl⟩ := (RouteEngine.entry_eq_some horder).1 hx
  obtain ⟨before, after, hs⟩ := List.append_of_mem hmem
  have hdone : (x.recomputeEffect st e.kept own).Done before x after e.work o := RouteOut.recomputeRoom_at hs horder st e.kept own
  have hroom : ∀ y, (x.recomputeEffect st e.kept own).left = some y → y.room = x.room := fun y hy => by
    rw [← Option.some.inj hy, RouteEntry.judged_room]
  have hentry : o.eng.entry x.room = some (x.judged st e.kept) := hdone.entry_same (hs ▸ horder) hroom
  obtain ⟨htold, hraised⟩ := hdone.work.of_work
  have htold : o.reports = x.changeTold st e.kept := htold
  intro y changed finite
  have hchanged : changed ↔ ¬x.keepsBests st e.kept = true := not_congr RouteEntry.keepsBests_iff.symm
  refine ⟨fun hsame => ?_, fun hnew => ?_, fun r => ?_, hdone.work.promptAt, hraised, fun r hr => ?_, hdone.work.frame⟩
  · have hkeeps := not_not.1 (mt hchanged.2 hsame)
    rw [hentry, htold, RouteEntry.judged_of_keepsBests hkeeps, RouteEntry.changeTold, if_pos hkeeps]
    exact ⟨rfl, rfl⟩
  · have hkeeps := hchanged.1 hnew
    rw [hentry, htold, RouteEntry.judged_of_changed hkeeps, RouteEntry.changeTold, if_neg hkeeps]
    exact ⟨rfl, rfl⟩
  · rw [hdone.work.promptSet, hchanged]
    rfl
  · exact hdone.entry_other hs hroom hr

/-- R108. -/
theorem RouteEntry.loses_iff (moment : Nat) (x : RouteEntry) :
    x.loses moment = true ↔ ∃ v ∈ x.stored, v.heard + 100000000 ≤ moment := by
  simp only [RouteEntry.loses, List.any_eq_true, decide_eq_true_eq]
  rfl

/-- R109: no link holds a value other than UNKNOWN. -/
theorem RouteEntry.dead_iff (st : Settings) (x : RouteEntry) : x.dead st = true ↔
    ∀ k ∈ st.links, ∀ v, x.storedFor k.index = some v → v.any.cost = .unknown ∧ v.level.cost = .unknown := by
  rw [RouteEntry.dead, List.all_eq_true]
  refine forall₂_congr fun k _ => ?_
  cases x.storedFor k.index with
  | none => simp
  | some v => simp

theorem RouteEntry.swept_of_loses {moment : Nat} {x : RouteEntry} (h : x.loses moment = true) (st : Settings) (closed : ZoneVec) :
    x.swept st closed moment = (x.aged moment).judged st closed := if_pos h

theorem RouteEntry.swept_of_not_loses {moment : Nat} {x : RouteEntry} (h : ¬x.loses moment = true) (st : Settings)
    (closed : ZoneVec) : x.swept st closed moment = x := if_neg h

/-- What is left of a swept entry is of its room. -/
theorem RouteEntry.sweepEffect_room {st : Settings} {closed : ZoneVec} {moment : Nat} {x y : RouteEntry}
    (h : (x.sweepEffect st closed moment).left = some y) : y.room = x.room := by
  simp only [RouteEntry.sweepEffect, Option.ite_none_left_eq_some, Option.some.injEq] at h
  obtain ⟨-, rfl⟩ := h
  obtain ⟨hroom, -⟩ := x.swept_fields st closed moment
  exact hroom

/-- R92, R106 to R109, R115. -/
theorem sweptEntryTellsOfAChange : Claims.SweptEntryTellsOfAChange := by
  intro st closed e room moment horder work o
  refine ⟨fun hnone => ?_, fun x hx => ?_⟩
  · show work.sweepRoom st closed moment room = work
    simp only [RouteOut.sweepRoom, work, hnone]
  obtain ⟨hmem, rfl⟩ := (RouteEngine.entry_eq_some horder).1 hx
  obtain ⟨before, after, hs⟩ := List.append_of_mem hmem
  have hdone : (x.sweepEffect st closed moment).Done before x after e.work o := RouteOut.sweepRoom_at hs horder st closed moment
  have hentry := hdone.entry_same (hs ▸ horder) fun _ => RouteEntry.sweepEffect_room
  obtain ⟨htold, hraised⟩ := hdone.work.of_work
  intro old lost y changed dead left
  have hlost : x.loses moment = true ↔ lost := x.loses_iff moment
  have hchanged : changed ↔ x.loses moment = true ∧ ¬(x.aged moment).keepsBests st closed = true :=
    and_congr hlost.symm (not_congr RouteEntry.keepsBests_iff.symm)
  have hdead : x.dies st moment = true ↔ dead := by
    rw [RouteEntry.dies, Bool.and_eq_true, RouteEntry.dead_iff, Bool.not_eq_true']
    rfl
  have hleft : left (x.swept st closed moment) (if x.loses moment then (x.aged moment).changeTold st closed else []) := by
    refine ⟨fun hlives => ?_, fun hdies => ?_⟩
    · have hd := mt hdead.1 hlives
      refine ⟨by simpa [RouteEntry.sweepEffect, hd] using hentry, by simpa [RouteEntry.sweepEffect, hd] using htold, fun r => ?_⟩
      rw [hdone.work.promptSet, hchanged]
      simp only [RouteEntry.sweepEffect, hd, Bool.false_eq_true, false_and, or_false]
      rfl
    · have hd := hdead.2 hdies
      refine ⟨by simpa [RouteEntry.sweepEffect, hd] using hentry, by simpa [RouteEntry.sweepEffect, hd] using htold, fun r => ?_⟩
      rw [hdone.work.promptSet, hchanged]
      simp only [RouteEntry.sweepEffect, hd, true_and]
      rfl
  clear_value left
  refine ⟨fun hyoung => ?_, fun hold hsame => ?_, fun hnew => ?_, hdone.work.promptAt, fun i => ?_,
    fun r hr => hdone.entry_other hs (fun _ => RouteEntry.sweepEffect_room) hr, hdone.work.frame⟩
  · have hl := mt hlost.1 hyoung
    rwa [RouteEntry.swept_of_not_loses hl, if_neg hl] at hleft
  · have hl := hlost.2 hold
    have hkeeps : (x.aged moment).keepsBests st closed = true := by
      by_contra hk
      exact hsame (hchanged.2 ⟨hl, hk⟩)
    rwa [RouteEntry.swept_of_loses hl, if_pos hl, RouteEntry.judged_of_keepsBests hkeeps, RouteEntry.changeTold,
      if_pos hkeeps] at hleft
  · obtain ⟨hl, hkeeps⟩ := hchanged.1 hnew
    rwa [RouteEntry.swept_of_loses hl, if_pos hl, RouteEntry.judged_of_changed hkeeps, RouteEntry.changeTold, if_neg hkeeps] at hleft
  · rw [hraised, ← hlost]
    rfl

/-! ## A job done whole -/

/-- R101: a job taken into hand and done whole is all its operations, and then no longer in hand. -/
theorem RouteEngine.doJob_whole {e f : RouteEngine} {st : Settings} {closed : ZoneVec} {job : Job} {left : List EntryOp}
    (hnone : e.inHand = none) (htake : e.takeJob st closed job = f.hold job left) :
    e.doJob st closed job none =
      let o := left.foldl (RouteOut.doOp st closed) { f with inHand := some { job := job, left := left } }.work
      { o with eng := { o.eng with inHand := none } } := by
  have hhold := RouteEngine.goOn_hold st closed none { job := job, left := left } f
  rw [RouteEngine.doJob, if_neg (by simp [hnone]), htake, hhold, RouteEngine.goOn_inHand]
  simp

/-- R107: the reports of a row of recomputations, in order. -/
theorem flatMap_changeTold (st : Settings) (closed : ZoneVec) (l : List RouteEntry) : l.flatMap (·.changeTold st closed) =
    (l.filter fun x => !x.keepsBests st closed).map fun x =>
      .changed x.room (x.recomputed st closed).any (x.recomputed st closed).level := by
  induction l with
  | nil => rfl
  | cons x l ih =>
    rw [List.flatMap_cons, ih]
    cases h : x.keepsBests st closed <;> simp [RouteEntry.changeTold, h]

/-- R92, R96, R106, R107, R111, R115: a condition recomputation done whole. -/
theorem conditionRecomputationJudgesEveryEntry : Claims.ConditionRecomputationJudgesEveryEntry := by
  intro st closed e horder hnone
  have hwhole := RouteEngine.doJob_whole hnone (e.takeJob_condition st closed)
  have hown : decide (closed.getLsbD st.zone ≠ e.kept.getLsbD st.zone) = true ↔
    closed.getLsbD st.zone ≠ e.kept.getLsbD st.zone := decide_eq_true_iff
  generalize decide (closed.getLsbD st.zone ≠ e.kept.getLsbD st.zone) = own at hwhole hown
  dsimp only at hwhole
  obtain ⟨hentries, hwork⟩ := foldl_entryOps (st := st) (closed := closed) (kept := closed)
    (op := fun x => .recompute x.room own) (effect := fun x => x.recomputeEffect st closed own)
    (fun x y hy => by rw [← Option.some.inj hy, RouteEntry.judged_room])
    (fun o before x after hkept hs h => hkept ▸ RouteOut.recomputeRoom_at hs h st o.eng.kept own) e.entries []
    (RouteEngine.work { e with kept := closed, conditionJob := false, inHand := some _ }) rfl rfl horder
  obtain ⟨htold, hraised⟩ := hwork.of_work
  generalize List.foldl _ _ _ = o at hentries hwork htold hraised hwhole
  have hentries : o.eng.entries = e.entries.map (·.judged st closed) := by
    simpa [RouteEntry.recomputeEffect] using hentries
  have hset : ∀ r, r ∈ o.eng.promptSet ↔ r ∈ e.promptSet ∨
      ∃ x ∈ e.entries, r = x.room ∧ (¬x.keepsBests st closed = true ∨ (own = true ∧ (x.recomputed st closed).hasFinite)) :=
    hwork.promptSet
  rw [hwhole]
  refine ⟨congrArg RouteEngine.kept hwork.frame, congrArg RouteEngine.conditionJob hwork.frame, rfl, ?_, fun y hy => ?_,
    fun hbit y hy hfinite => ?_, hentries, ?_, fun r => ?_, hwork.promptAt, hraised⟩
  · show o.eng.entries.map _ = _
    simp only [hentries, List.map_map, Function.comp_def, RouteEntry.judged_room, RouteEntry.judged_stored,
      RouteEntry.judged_pinned]
  · obtain ⟨x, -, rfl⟩ := List.mem_map.1 (hentries ▸ hy)
    obtain ⟨hany, hlevel⟩ := x.recomputed_judged st closed
    exact ⟨hany.symm, hlevel.symm⟩
  · obtain ⟨x, hx, rfl⟩ := List.mem_map.1 (hentries ▸ hy)
    rw [RouteEntry.judged_any, RouteEntry.judged_level] at hfinite
    exact (hset _).2 (.inr ⟨x, hx, RouteEntry.judged_room, .inr ⟨hown.2 hbit, hfinite⟩⟩)
  · exact htold.trans (flatMap_changeTold st closed e.entries)
  · rw [← hown]
    show r ∈ o.eng.promptSet ↔ r ∈ e.promptSet ∨ ∃ x ∈ e.entries, x.room = r ∧
      (x.keepsBests st closed = false ∨ (own = true ∧ (x.recomputed st closed).hasFinite))
    simpa only [Bool.not_eq_true, eq_comm (a := r)] using hset r

/-! ## The creations that end a sweep (R100) -/

/-- R100, R104, R105: a creation leaves only entries that were there and a pinned one with no values, and keeps the pin set. -/
theorem RouteOut.createPinned_spec {st : Settings} {room : Nat} {o : RouteOut} (hroom : room ∈ o.eng.pinSet) :
    (o.createPinned st room).eng.pinSet = o.eng.pinSet ∧ (o.createPinned st room).eng.sweepJob = o.eng.sweepJob ∧
      ∀ y ∈ (o.createPinned st room).eng.entries, y ∈ o.eng.entries ∨ (y.pinned = true ∧ y.stored = []) := by
  have hmade : ∀ e : RouteEngine, e.pinSet = o.eng.pinSet → e.entries ⊆ o.eng.entries →
      ∀ y ∈ (e.create st room).entries, y ∈ o.eng.entries ∨ (y.pinned = true ∧ y.stored = []) := fun e hpins hsub y hy => by
    rcases mem_of_mem_putEntry hy with rfl | hy
    · exact .inr ⟨by simp [freshEntry, pinnedRoom, hpins, hroom], rfl⟩
    · exact .inl (hsub hy)
  unfold RouteOut.createPinned
  split
  · exact ⟨rfl, rfl, fun y hy => .inl hy⟩
  split
  · exact ⟨rfl, rfl, hmade o.eng rfl (List.Subset.refl _)⟩
  split
  · next v _ =>
    obtain ⟨-, -, -, -, -, hentries, hframe⟩ := o.remove_spec v
    have hpins := congrArg RouteEngine.pinSet hframe
    have hjob := congrArg RouteEngine.sweepJob hframe
    exact ⟨hpins, hjob, hmade _ hpins (hentries ▸ List.filter_subset_self _)⟩
  · exact ⟨rfl, rfl, fun y hy => .inl hy⟩

/-- R100: so do the creations for rooms of the pin set, one after the other. -/
theorem foldl_create_spec (st : Settings) (closed : ZoneVec) (rooms : List Nat) (o : RouteOut)
    (hrooms : ∀ r ∈ rooms, r ∈ o.eng.pinSet) :
    ((rooms.map .create).foldl (RouteOut.doOp st closed) o).eng.sweepJob = o.eng.sweepJob ∧
      ∀ y ∈ ((rooms.map .create).foldl (RouteOut.doOp st closed) o).eng.entries,
        y ∈ o.eng.entries ∨ (y.pinned = true ∧ y.stored = []) := by
  induction rooms generalizing o with
  | nil => exact ⟨rfl, fun y hy => .inl hy⟩
  | cons room rooms ih =>
    obtain ⟨hroom, hrooms⟩ := List.forall_mem_cons.1 hrooms
    obtain ⟨hpins, hjob, hmem⟩ := RouteOut.createPinned_spec (st := st) hroom
    obtain ⟨hjobs, hmems⟩ := ih (o.createPinned st room) (hpins ▸ hrooms)
    exact ⟨hjobs.trans hjob, fun y hy => (hmems y hy).elim (hmem y) .inr⟩

/-- R100: rooms that have their entries get no other. -/
theorem foldl_create_held (st : Settings) (closed : ZoneVec) {rooms : List Nat} {o : RouteOut}
    (h : ∀ r ∈ rooms, (o.eng.entry r).isSome = true) : (rooms.map .create).foldl (RouteOut.doOp st closed) o = o := by
  induction rooms with
  | nil => rfl
  | cons room rooms ih =>
    obtain ⟨hroom, hrooms⟩ := List.forall_mem_cons.1 h
    have hcreate : o.doOp st closed (.create room) = o := if_pos hroom
    rw [List.map_cons, List.foldl_cons, hcreate, ih hrooms]

/-! ## A sweep done whole -/

/-- R109: some link holds a value other than UNKNOWN. -/
def RouteEntry.lives (st : Settings) (x : RouteEntry) : Prop :=
  ∃ k ∈ st.links, ∃ v, x.storedFor k.index = some v ∧ (v.any.cost ≠ .unknown ∨ v.level.cost ≠ .unknown)

theorem RouteEntry.not_dead_iff (st : Settings) (x : RouteEntry) : ¬x.dead st = true ↔ x.lives st := by
  rw [RouteEntry.dead_iff, RouteEntry.lives]
  simp only [not_forall, exists_prop, not_and_or, ne_eq]

section
variable {st : Settings} {closed : ZoneVec} {moment : Nat} {x : RouteEntry}

/-- R109: an entry stays that is pinned, or that lives once its old values are dropped. -/
theorem RouteEntry.not_dies_iff : ¬x.dies st moment = true ↔ x.pinned = true ∨ (x.aged moment).lives st := by
  rw [RouteEntry.dies, Bool.and_eq_true, not_and_or, RouteEntry.not_dead_iff, Bool.not_eq_true', Bool.not_eq_false]

/-- R108: of a swept entry's values all are younger than 100 s. -/
theorem RouteEntry.swept_young {v : StoredValues} (h : v ∈ (x.swept st closed moment).stored) : moment < v.heard + 100000000 := by
  obtain ⟨-, -, hstored⟩ := x.swept_fields st closed moment
  rw [hstored] at h
  exact of_decide_eq_true (List.mem_filter.1 h).2

/-- R108: an entry has its stored values after a sweep where it has lost none. -/
theorem RouteEntry.swept_stored_iff : (x.swept st closed moment).stored = x.stored ↔ ¬x.loses moment = true := by
  obtain ⟨-, -, hstored⟩ := x.swept_fields st closed moment
  rw [hstored]
  exact ⟨fun h => (x.aged_length_iff moment).1 (by rw [h]), fun h => by rw [RouteEntry.aged_of_not_loses h]⟩

/-- R107, R109: a report of a sweep's operation names the entry's room. -/
theorem RouteEntry.sweepEffect_told_room {r : RouteReport} (h : r ∈ (x.sweepEffect st closed moment).told) : r.room = x.room := by
  simp only [RouteEntry.sweepEffect, List.mem_append] at h
  rcases h with h | h
  · split at h
    exacts [RouteEntry.changeTold_room (x := x.aged moment) h, absurd h List.not_mem_nil]
  · split at h
    · rw [List.mem_singleton.1 h]
      rfl
    · exact absurd h List.not_mem_nil

/-- R106 to R109: an entry that stays is as it was and unreported where it has lost nothing. -/
theorem RouteEntry.sweepEffect_kept (hlives : ¬x.dies st moment = true) (hl : ¬x.loses moment = true) :
    x.swept st closed moment = x ∧ (x.sweepEffect st closed moment).told = [] :=
  ⟨RouteEntry.swept_of_not_loses hl st closed, by simp [RouteEntry.sweepEffect, hlives, hl]⟩

/-- R106 to R109: an entry that stays with fewer values is recomputed, and counts, reports and joins by the change of its bests. -/
theorem RouteEntry.sweepEffect_recomputed (hlives : ¬x.dies st moment = true) (hl : x.loses moment = true) :
    let y := x.swept st closed moment
    let f := x.sweepEffect st closed moment
    (y.any = (y.recomputed st closed).any ∧ y.level = (y.recomputed st closed).level) ∧
    (y.any = x.any ∧ y.level = x.level → y.changeCount = x.changeCount ∧ f.told = []) ∧
    (¬(y.any = x.any ∧ y.level = x.level) → y.changeCount = (x.changeCount + 1) % 65536 ∧
      .changed x.room y.any y.level ∈ f.told ∧ f.joins) := by
  intro y f
  have hy : y = (x.aged moment).judged st closed := RouteEntry.swept_of_loses hl st closed
  have htold : f.told = (x.aged moment).changeTold st closed := by simp [f, RouteEntry.sweepEffect, hlives, hl]
  have hkeeps : (y.any = x.any ∧ y.level = x.level) ↔ (x.aged moment).keepsBests st closed = true := by
    rw [RouteEntry.keepsBests_iff, hy, RouteEntry.judged_any, RouteEntry.judged_level]
    rfl
  obtain ⟨hany, hlevel⟩ := (x.aged moment).recomputed_judged st closed
  refine ⟨by rw [hy]; exact ⟨hany.symm, hlevel.symm⟩, fun hsame => ?_, fun hnew => ?_⟩
  · have hk := hkeeps.1 hsame
    rw [htold, hy, RouteEntry.judged_of_keepsBests hk, RouteEntry.changeTold, if_pos hk]
    exact ⟨rfl, rfl⟩
  · have hk := mt hkeeps.2 hnew
    refine ⟨by rw [hy, RouteEntry.judged_of_changed hk]; rfl, ?_, .inl ⟨hl, hk⟩⟩
    rw [htold, hy, RouteEntry.changeTold, if_neg hk, RouteEntry.judged_any, RouteEntry.judged_level]
    exact List.mem_singleton.2 rfl

/-- R107, R109: an entry that is removed is reported, and its room joins the prompt set where a best was other than UNKNOWN. -/
theorem RouteEntry.sweepEffect_removed (hdies : x.dies st moment = true) :
    (x.sweepEffect st closed moment).left = none ∧ .removed x.room ∈ (x.sweepEffect st closed moment).told ∧
      (x.any.cost ≠ .unknown ∨ x.level.cost ≠ .unknown → (x.sweepEffect st closed moment).joins) := by
  refine ⟨by simp [RouteEntry.sweepEffect, hdies], by simp [RouteEntry.sweepEffect, hdies], fun hknown => ?_⟩
  by_cases hl : x.loses moment = true
  · by_cases hk : (x.aged moment).keepsBests st closed = true
    · exact .inr ⟨hdies, by rwa [RouteEntry.swept_of_loses hl, RouteEntry.judged_of_keepsBests hk]⟩
    · exact .inl ⟨hl, hk⟩
  · exact .inr ⟨hdies, by rwa [RouteEntry.swept_of_not_loses hl]⟩

end

/-- R92, R100, R106 to R109, R115: a sweep done whole. -/
theorem sweepLeavesNoAgedValue : Claims.SweepLeavesNoAgedValue := by
  intro st closed e horder hnone
  have hwhole := RouteEngine.doJob_whole hnone (e.takeJob_sweep st closed)
  rw [List.foldl_append] at hwhole
  dsimp only at hwhole
  obtain ⟨hentries, hwork⟩ := foldl_entryOps (st := st) (closed := closed) (kept := e.kept)
    (op := fun x => .age x.room e.clock) (effect := fun x => x.sweepEffect st closed e.clock)
    (fun _ _ => RouteEntry.sweepEffect_room)
    (fun o before x after _ hs h => RouteOut.sweepRoom_at hs h st closed e.clock) e.entries []
    (RouteEngine.work { e with sweepJob := false, inHand := some _ }) rfl rfl horder
  obtain ⟨htold, -⟩ := hwork.of_work
  generalize List.foldl _ _ _ = p at hentries hwork htold hwhole
  have hmem : ∀ y, y ∈ p.eng.entries ↔ ∃ x ∈ e.entries, ¬x.dies st e.clock = true ∧ x.swept st closed e.clock = y := fun y => by
    rw [hentries]
    simp [RouteEntry.sweepEffect]
  have hjoins : ∀ x ∈ e.entries, (x.sweepEffect st closed e.clock).joins → x.room ∈ p.eng.promptSet := fun x hx hj =>
    (hwork.promptSet _).2 (.inr ⟨x, hx, rfl, hj⟩)
  have htells : ∀ x ∈ e.entries, ∀ r ∈ (x.sweepEffect st closed e.clock).told, r ∈ p.reports := fun x hx r hr =>
    htold ▸ List.mem_flatMap_of_mem hx hr
  have hsame : ∀ x ∈ e.entries, ∀ y ∈ e.entries, y.room = x.room → y = x := fun x hx y hy hroom =>
    List.inj_on_of_nodup_map (horder.imp Nat.ne_of_lt) hy hx hroom
  have hsilent : ∀ x ∈ e.entries, (x.sweepEffect st closed e.clock).told = [] → ∀ r ∈ p.reports, r.room ≠ x.room :=
    fun x hx hnil r hr hroom => by
      rw [htold] at hr
      obtain ⟨y, hy, hr⟩ := List.mem_flatMap.1 hr
      obtain rfl := hsame x hx y hy ((RouteEntry.sweepEffect_told_room hr).symm.trans hroom)
      exact absurd (hnil ▸ hr) List.not_mem_nil
  obtain ⟨hjob, hcreated⟩ := foldl_create_spec st closed e.pinSet p fun r hr => by rw [hwork.frame]; exact hr
  rw [hwhole]
  intro o young
  refine ⟨?_, rfl, fun y hy => ?_, fun hpins x hx => ?_⟩
  · exact hjob.trans (by rw [hwork.frame]; rfl)
  · rcases hcreated y hy with hy | ⟨hpinned, hstored⟩
    · obtain ⟨x, hx, hstays, rfl⟩ := (hmem y).1 hy
      obtain ⟨hroom, hpinned, hstored⟩ := x.swept_fields st closed e.clock
      refine ⟨fun v hv => RouteEntry.swept_young hv, ?_⟩
      rw [hpinned]
      refine (RouteEntry.not_dies_iff.1 hstays).imp_right fun hlives => ?_
      simpa only [RouteEntry.lives, RouteEntry.storedFor, hstored] using hlives
    · exact ⟨by simp [hstored], .inl hpinned⟩
  · intro live
    have hheld : ∀ r ∈ e.pinSet, (p.eng.entry r).isSome = true := fun r hr => by
      obtain ⟨z, hz, rfl, hpinned⟩ := hpins r hr
      obtain ⟨hroom, -⟩ := z.swept_fields st closed e.clock
      exact List.find?_isSome.2 ⟨_, (hmem _).2 ⟨z, hz, RouteEntry.not_dies_iff.2 (.inl hpinned), rfl⟩, by simp [hroom]⟩
    have ho : o = { p with eng := { p.eng with inHand := none } } := by
      simp only [o, foldl_create_held st closed hheld]
    have hstays : (x.pinned = true ∨ live) ↔ ¬x.dies st e.clock = true := RouteEntry.not_dies_iff.symm
    clear_value o live
    subst ho
    refine ⟨fun h => ?_, fun h => ?_⟩
    · have hd := hstays.1 h
      obtain ⟨hroom, hpinned, hstored⟩ := x.swept_fields st closed e.clock
      refine ⟨x.swept st closed e.clock, (hmem _).2 ⟨x, hx, hd, rfl⟩, hroom, hpinned, hstored, fun hkept => ?_, fun hlost => ?_⟩
      · obtain ⟨hy, hnil⟩ := RouteEntry.sweepEffect_kept (closed := closed) hd (RouteEntry.swept_stored_iff.1 hkept)
        exact ⟨hy, hsilent x hx hnil⟩
      · obtain ⟨⟨hany, hlevel⟩, hsame, hnew⟩ := RouteEntry.sweepEffect_recomputed (closed := closed) hd
          (not_not.1 (mt RouteEntry.swept_stored_iff.2 hlost))
        refine ⟨hany, hlevel, fun hbests => ?_, fun hbests => ?_⟩
        · obtain ⟨hcount, hnil⟩ := hsame hbests
          exact ⟨hcount, hsilent x hx hnil⟩
        · obtain ⟨hcount, htold, hj⟩ := hnew hbests
          exact ⟨hcount, htells x hx _ htold, hjoins x hx hj⟩
    · obtain ⟨-, htold, hj⟩ := RouteEntry.sweepEffect_removed (closed := closed) (not_not.1 (mt hstays.2 h))
      refine ⟨fun y hy hroom => ?_, htells x hx _ htold, fun hknown => hjoins x hx (hj hknown)⟩
      obtain ⟨z, hz, hzd, rfl⟩ := (hmem y).1 hy
      obtain ⟨hzroom, -⟩ := z.swept_fields st closed e.clock
      obtain rfl := hsame x hx z hz (hzroom.symm.trans hroom)
      exact h (hstays.2 hzd)

/-- Settles O43. -/
theorem conditionsAndSweepLeaveNoStaleRoute : Obligations.ConditionsAndSweepLeaveNoStaleRoute :=
  ⟨recomputedEntryTellsOfAChange, sweptEntryTellsOfAChange, conditionRecomputationJudgesEveryEntry, sweepLeavesNoAgedValue⟩

end Sys2Proof.Machine
end

section
/-! PROOFS. How long the Route Table is after an entry is placed or removed, and the courses that an advert entry and a creation for
the pin set can take (R102, R104, R105). -/

namespace Sys2Proof.Machine

/-! ## The table's length -/

/-- An entry placed takes the place of its room's, and the table is as long as before. -/
theorem length_putEntry_held {x y : RouteEntry} {l : List RouteEntry} (h : InRoomOrder l) (hy : y ∈ l) (hroom : y.room = x.room) :
    (putEntry x l).length = l.length := by
  obtain ⟨before, after, rfl⟩ := List.append_of_mem hy
  rw [putEntry_split h hroom.symm]
  simp

/-- An entry placed for a room without one makes the table longer by one. -/
theorem length_putEntry_new {x : RouteEntry} {l : List RouteEntry} (h : ∀ y ∈ l, y.room ≠ x.room) :
    (putEntry x l).length = l.length + 1 := by
  induction l with
  | nil => rfl
  | cons y l ih =>
    obtain ⟨hy, hl⟩ := List.forall_mem_cons.1 h
    unfold putEntry
    split
    · rfl
    · rw [if_neg (Ne.symm hy), List.length_cons, ih hl, List.length_cons]

theorem length_putEntry_le {l : List RouteEntry} (h : InRoomOrder l) (x : RouteEntry) : (putEntry x l).length ≤ l.length + 1 := by
  by_cases hheld : ∃ y ∈ l, y.room = x.room
  · obtain ⟨y, hy, hroom⟩ := hheld
    exact (length_putEntry_held h hy hroom).trans_le (Nat.le_succ _)
  · exact (length_putEntry_new fun y hy hroom => hheld ⟨y, hy, hroom⟩).le

/-- Of a table in room order the entries but one. -/
theorem length_filter_room {x : RouteEntry} {l : List RouteEntry} (h : InRoomOrder l) (hx : x ∈ l) :
    (l.filter fun y => decide (y.room ≠ x.room)).length + 1 = l.length := by
  obtain ⟨before, after, rfl⟩ := List.append_of_mem hx
  rw [filter_room_split h]
  simp [Nat.add_assoc]

/-- A room without an entry. -/
theorem RouteEngine.entry_eq_none {e : RouteEngine} {room : Nat} : e.entry room = none ↔ ∀ y ∈ e.entries, y.room ≠ room := by
  simp [RouteEngine.entry]

/-- The entry found for a room is that room's. -/
theorem RouteEngine.room_of_entry {e : RouteEngine} {room : Nat} {x : RouteEntry} (h : e.entry room = some x) : x.room = room := by
  simpa using List.find?_some h

/-- R105: the victim is an unpinned entry of the table. -/
theorem RouteEngine.victim_mem {e : RouteEngine} {v : RouteEntry} (h : e.victim = some v) : v ∈ e.entries ∧ v.pinned = false := by
  simpa using List.mem_filter.1 (pickBest_mem h)

/-! ## The courses of an advert entry (R102, R104, R105) -/

section
variable {st : Settings} {closed : ZoneVec} {source heard : Nat} {a : AdvertEntry} {o : RouteOut}

/-- R102: an advert entry for a room in the table. -/
theorem RouteOut.apply_held {x : RouteEntry} (h : o.eng.entry a.room = some x) :
    o.apply st closed source heard a = o.recompute st closed (storeValues st source heard a x) := by
  simp only [RouteOut.apply, RouteOut.takeIn, h]

/-- R104: one for a room without an entry, into a table with room. -/
theorem RouteOut.apply_new (h : o.eng.entry a.room = none) (hroom : o.eng.entries.length < 256) :
    o.apply st closed source heard a =
      o.recompute st closed (storeValues st source heard a (freshEntry st o.eng.pinSet a.room)) := by
  simp only [RouteOut.apply, RouteOut.takeIn, h, hroom, if_true]

/-- R105: one that ranks better than the victim, into a full table. -/
theorem RouteOut.apply_replaces {v : RouteEntry} (h : o.eng.entry a.room = none) (hfull : 256 ≤ o.eng.entries.length)
    (hv : o.eng.victim = some v) (hbetter : (arriving st closed source a).better v.any.cost = true) :
    o.apply st closed source heard a =
      (o.remove v).recompute st closed (storeValues st source heard a (freshEntry st o.eng.pinSet a.room)) := by
  simp only [RouteOut.apply, RouteOut.takeIn, h, hfull.not_gt, hv, hbetter, if_true, if_false]

/-- R105: one that ranks no better, or with every entry pinned, into a full table. -/
theorem RouteOut.apply_skips (h : o.eng.entry a.room = none) (hfull : 256 ≤ o.eng.entries.length)
    (hworse : ∀ v, o.eng.victim = some v → ¬(arriving st closed source a).better v.any.cost = true) :
    o.apply st closed source heard a = o.raise .routeTableFull := by
  cases hv : o.eng.victim with
  | none => simp only [RouteOut.apply, RouteOut.takeIn, h, hfull.not_gt, hv, if_false]
  | some v => simp only [RouteOut.apply, RouteOut.takeIn, h, hfull.not_gt, hv, hworse v hv, Bool.false_eq_true, if_false]

/-- Everything an advert entry can come to. -/
theorem RouteOut.apply_cases (st : Settings) (closed : ZoneVec) (source heard : Nat) (a : AdvertEntry) (o : RouteOut) :
    (∃ x, o.eng.entry a.room = some x ∧
      o.apply st closed source heard a = o.recompute st closed (storeValues st source heard a x)) ∨
    (o.eng.entries.length < 256 ∧ o.apply st closed source heard a =
      o.recompute st closed (storeValues st source heard a (freshEntry st o.eng.pinSet a.room))) ∨
    (∃ v, o.eng.victim = some v ∧ o.apply st closed source heard a =
      (o.remove v).recompute st closed (storeValues st source heard a (freshEntry st o.eng.pinSet a.room))) ∨
    o.apply st closed source heard a = o.raise .routeTableFull := by
  cases h : o.eng.entry a.room with
  | some x => exact .inl ⟨x, rfl, RouteOut.apply_held h⟩
  | none =>
    rcases Nat.lt_or_ge o.eng.entries.length 256 with hroom | hfull
    · exact .inr (.inl ⟨hroom, RouteOut.apply_new h hroom⟩)
    · by_cases hworse : ∀ v, o.eng.victim = some v → ¬(arriving st closed source a).better v.any.cost = true
      · exact .inr (.inr (.inr (RouteOut.apply_skips h hfull hworse)))
      · push Not at hworse
        obtain ⟨v, hv, hbetter⟩ := hworse
        exact .inr (.inr (.inl ⟨v, hv, RouteOut.apply_replaces h hfull hv hbetter⟩))

end

/-! ## The courses of a creation for the pin set (R100, R104, R105) -/

section
variable {st : Settings} {room : Nat} {o : RouteOut}

theorem RouteOut.createPinned_held (h : o.eng.entry room ≠ none) : o.createPinned st room = o :=
  if_pos (Option.isSome_iff_ne_none.2 h)

theorem RouteOut.createPinned_new (h : o.eng.entry room = none) (hroom : o.eng.entries.length < 256) :
    o.createPinned st room = { o with eng := o.eng.put (freshEntry st o.eng.pinSet room) } := by
  rw [RouteOut.createPinned, if_neg (by simp [h]), if_pos hroom]
  rfl

theorem RouteOut.createPinned_replaces {v : RouteEntry} (h : o.eng.entry room = none) (hfull : 256 ≤ o.eng.entries.length)
    (hv : o.eng.victim = some v) : o.createPinned st room =
      { o.remove v with eng := (o.remove v).eng.put (freshEntry st o.eng.pinSet room) } := by
  obtain ⟨-, -, -, -, -, -, hframe⟩ := o.remove_spec v
  have hpins := congrArg RouteEngine.pinSet hframe
  dsimp only at hpins
  simp only [RouteOut.createPinned, h, Option.isSome_none, Bool.false_eq_true, hfull.not_gt, if_false, hv, RouteEngine.create,
    hpins]

theorem RouteOut.createPinned_full (h : o.eng.entry room = none) (hfull : 256 ≤ o.eng.entries.length)
    (hv : o.eng.victim = none) : o.createPinned st room = o.raise .routeTableFull := by
  simp only [RouteOut.createPinned, h, Option.isSome_none, Bool.false_eq_true, hfull.not_gt, if_false, hv]

/-- Everything a creation can come to. -/
theorem RouteOut.createPinned_cases (st : Settings) (room : Nat) (o : RouteOut) :
    o.createPinned st room = o ∨
    (o.eng.entries.length < 256 ∧
      o.createPinned st room = { o with eng := o.eng.put (freshEntry st o.eng.pinSet room) }) ∨
    (∃ v, o.eng.victim = some v ∧ o.createPinned st room =
      { o.remove v with eng := (o.remove v).eng.put (freshEntry st o.eng.pinSet room) }) ∨
    o.createPinned st room = o.raise .routeTableFull := by
  by_cases h : o.eng.entry room = none
  · rcases Nat.lt_or_ge o.eng.entries.length 256 with hroom | hfull
    · exact .inr (.inl ⟨hroom, RouteOut.createPinned_new h hroom⟩)
    · cases hv : o.eng.victim with
      | none => exact .inr (.inr (.inr (RouteOut.createPinned_full h hfull hv)))
      | some v => exact .inr (.inr (.inl ⟨v, rfl, RouteOut.createPinned_replaces h hfull hv⟩))
  · exact .inl (RouteOut.createPinned_held h)

end

end Sys2Proof.Machine
end

section
/-! PROOFS. The Route Table's bound and order, the order of the room sets, and the job in hand, over every step (O46): each operation
on the table keeps them, and so does every change of the Route Engine. -/

namespace Sys2Proof.Machine

/-! ## The invariant over the operations on the table -/

/-- What `RoutesOk` says of the Route Engine itself (R99, R101, R115, R138). -/
structure RouteEngine.Sound (e : RouteEngine) : Prop where
  bound : e.entries.length ≤ 256
  order : InRoomOrder e.entries
  promptOrder : e.promptSet.Pairwise (· < ·)
  pinOrder : e.pinSet.Pairwise (· < ·)
  waitingPins : ∀ pins, e.pinJob = some pins → pins.Pairwise (· < ·)
  inHand : ∀ h, e.inHand = some h → h.left ≠ [] ∧ h.job ≠ .frames

theorem routesOk_iff (s : State) : RoutesOk s ↔ QuietOutsideRun s ∧ s.routes.Sound :=
  ⟨fun ⟨quiet, bound, order, prompt, pins, waiting, hand⟩ => ⟨quiet, bound, order, prompt, pins, waiting, hand⟩,
    fun ⟨quiet, bound, order, prompt, pins, waiting, hand⟩ => ⟨quiet, bound, order, prompt, pins, waiting, hand⟩⟩

/-- An entry for the room can be placed: it has one, or the table is not full. -/
def RouteEngine.Takes (room : Nat) (e : RouteEngine) : Prop := (∃ y ∈ e.entries, y.room = room) ∨ e.entries.length < 256

namespace RouteEngine.Sound

/-- R104: an entry placed. -/
theorem put {e : RouteEngine} (he : e.Sound) {x : RouteEntry} (hx : e.Takes x.room) : (e.put x).Sound where
  bound := by
    rcases hx with ⟨y, hy, hroom⟩ | hroom
    · exact (length_putEntry_held he.order hy hroom).trans_le he.bound
    · exact (length_putEntry_le he.order x).trans hroom
  order := putEntry_ascending he.order
  promptOrder := he.promptOrder
  pinOrder := he.pinOrder
  waitingPins := he.waitingPins
  inHand := he.inHand

/-- R115: a room joins the prompt set. -/
theorem joinPrompt {e : RouteEngine} (he : e.Sound) (room : Nat) : (e.joinPrompt room).Sound :=
  { he with promptOrder := joinRoom_ascending he.promptOrder }

/-- R105, R109: an entry removed. -/
theorem remove {o : RouteOut} (h : o.eng.Sound) (x : RouteEntry) : (o.remove x).eng.Sound := by
  have hleft : RouteEngine.Sound { o.eng with entries := o.eng.entries.filter fun y => decide (y.room ≠ x.room) } :=
    { h with
      bound := (List.length_filter_le _ _).trans h.bound
      order := h.order.sublist (List.filter_sublist.map _) }
  unfold RouteOut.remove
  dsimp only
  split
  exacts [hleft.joinPrompt x.room, hleft]

/-- R105: with the victim removed there is room for an entry. -/
theorem takes_of_removed {o : RouteOut} (h : o.eng.Sound) {v : RouteEntry} (hv : o.eng.victim = some v) (room : Nat) :
    (o.remove v).eng.Takes room := by
  obtain ⟨-, -, -, -, -, hentries, -⟩ := o.remove_spec v
  obtain ⟨hmem, -⟩ := RouteEngine.victim_mem hv
  have hlength := length_filter_room h.order hmem
  have hbound := h.bound
  right
  rw [hentries]
  omega

/-- R96, R106: a recomputation. -/
theorem recompute {o : RouteOut} (h : o.eng.Sound) {x : RouteEntry} (hx : o.eng.Takes x.room) (st : Settings) (closed : ZoneVec) :
    (o.recompute st closed x).eng.Sound := by
  unfold RouteOut.recompute
  dsimp only
  split
  · exact (h.put (x := { x.recomputed st closed with changeCount := (x.changeCount + 1) % 65536 }) hx).joinPrompt x.room
  · exact h.put hx

/-! ## The invariant over the entry operations (R101) -/

/-- R102 to R105: an advert entry applied. -/
theorem apply {o : RouteOut} (h : o.eng.Sound) (st : Settings) (closed : ZoneVec) (source heard : Nat) (a : AdvertEntry) :
    (o.apply st closed source heard a).eng.Sound := by
  rcases o.apply_cases st closed source heard a with ⟨x, hx, e⟩ | ⟨hroom, e⟩ | ⟨v, hv, e⟩ | e <;> rw [e]
  · exact h.recompute (x := storeValues st source heard a x) (.inl ⟨x, RouteEngine.mem_of_entry hx, rfl⟩) st closed
  · exact h.recompute (.inr hroom) st closed
  · exact (h.remove v).recompute (h.takes_of_removed hv _) st closed
  · exact h

/-- R111: an entry of a condition recomputation. -/
theorem recomputeRoom {o : RouteOut} (h : o.eng.Sound) (st : Settings) (closed : ZoneVec) (own : Bool) (room : Nat) :
    (o.recomputeRoom st closed own room).eng.Sound := by
  unfold RouteOut.recomputeRoom
  split
  · exact h
  · next x hx =>
    have hp := h.recompute (.inl ⟨x, RouteEngine.mem_of_entry hx, rfl⟩) st closed
    dsimp only
    split
    · split
      exacts [hp.joinPrompt room, hp]
    · exact hp

/-- R100: a pinned flag that follows the pin set. -/
theorem repinRoom {o : RouteOut} (h : o.eng.Sound) (st : Settings) (room : Nat) : (o.repinRoom st room).eng.Sound := by
  unfold RouteOut.repinRoom
  split
  · next x hx => exact h.put (x := { x with pinned := _ }) (.inl ⟨x, RouteEngine.mem_of_entry hx, rfl⟩)
  · exact h

/-- R100, R105: a room of the pin set gets an entry. -/
theorem createPinned {o : RouteOut} (h : o.eng.Sound) (st : Settings) (room : Nat) : (o.createPinned st room).eng.Sound := by
  rcases o.createPinned_cases st room with e | ⟨hroom, e⟩ | ⟨v, hv, e⟩ | e <;> rw [e]
  · exact h
  · exact h.put (.inr hroom)
  · exact (h.remove v).put (h.takes_of_removed hv _)
  · exact h

/-- R108, R109: an entry of a sweep. -/
theorem sweepRoom {o : RouteOut} (h : o.eng.Sound) (st : Settings) (closed : ZoneVec) (moment room : Nat) :
    (o.sweepRoom st closed moment room).eng.Sound := by
  unfold RouteOut.sweepRoom
  split
  · next x hx =>
    have haged : (o.ageRoom st closed moment x).eng.Sound := by
      unfold RouteOut.ageRoom
      split
      exacts [h, h.recompute (x := x.aged moment) (.inl ⟨x, RouteEngine.mem_of_entry hx, rfl⟩) st closed]
    unfold RouteOut.dropDead
    split
    · split
      exacts [haged.remove _, haged]
    · exact haged
  · exact h

theorem doOp {o : RouteOut} (h : o.eng.Sound) (st : Settings) (closed : ZoneVec) (op : EntryOp) :
    (o.doOp st closed op).eng.Sound := by
  cases op with
  | apply source heard a => exact h.apply st closed source heard a
  | recompute room own => exact h.recomputeRoom st _ own room
  | repin room => exact h.repinRoom st room
  | create room => exact h.createPinned st room
  | age room moment => exact h.sweepRoom st closed moment room

/-! ## The invariant over jobs (R101) -/

/-- R101: a job on entries goes into hand with the operations left, if any are. -/
theorem hold {e : RouteEngine} (he : e.Sound) {job : Job} (hjob : job ≠ .frames) (left : List EntryOp) :
    (e.hold job left).Sound :=
  { he with
    inHand := fun h hh => by
      simp only [RouteEngine.hold, List.isEmpty_iff, Option.ite_none_left_eq_some, Option.some.injEq] at hh
      obtain ⟨hleft, rfl⟩ := hh
      exact ⟨hleft, hjob⟩ }

/-- R100, R101: a job taken into hand; a new pin set is one that waited. -/
theorem takeJob {e : RouteEngine} (he : e.Sound) (st : Settings) (closed : ZoneVec) (job : Job) :
    (e.takeJob st closed job).Sound := by
  cases job with
  | condition => exact RouteEngine.Sound.hold (e := { e with kept := closed, conditionJob := false }) { he with } (by decide) _
  | pins =>
    unfold RouteEngine.takeJob
    dsimp only
    split
    · next pins hpins =>
      exact RouteEngine.Sound.hold (e := { e with pinSet := pins, pinJob := none })
        { he with pinOrder := he.waitingPins pins hpins, waitingPins := fun _ h => by cases h } (by decide) _
    · exact he
  | advert =>
    unfold RouteEngine.takeJob
    dsimp only
    split
    · exact RouteEngine.Sound.hold (e := { e with advertJob := none }) { he with } (by decide) _
    · exact he
  | frames => exact he
  | sweep => exact RouteEngine.Sound.hold (e := { e with sweepJob := false }) { he with } (by decide) _

/-- R101: the job in hand goes on. -/
theorem goOn {e : RouteEngine} (he : e.Sound) (st : Settings) (closed : ZoneVec) (upTo : Option Nat) :
    (e.goOn st closed upTo).eng.Sound := by
  have hops : ∀ (ops : List EntryOp) (o : RouteOut), o.eng.Sound → (ops.foldl (RouteOut.doOp st closed) o).eng.Sound := by
    intro ops
    induction ops with
    | nil => exact fun o ho => ho
    | cons op ops ih => exact fun o ho => ih _ (ho.doOp st closed op)
  unfold RouteEngine.goOn
  split
  · next h hh =>
    obtain ⟨-, hjob⟩ := he.inHand h hh
    exact (hops _ e.work he).hold hjob _
  · exact he

/-- R101: a job done or gone on with. -/
theorem doJob {e : RouteEngine} (he : e.Sound) (st : Settings) (closed : ZoneVec) (job : Job) (upTo : Option Nat) :
    (e.doJob st closed job upTo).eng.Sound := by
  unfold RouteEngine.doJob
  split
  exacts [he.goOn st closed upTo, (he.takeJob st closed job).goOn st closed upTo]

end RouteEngine.Sound

/-! ## The entry to RUN (R119) -/

/-- What adds at most one element to a list for each of some others adds at most as many as these are. -/
theorem length_foldl_le {α β : Type} {f : List α → β → List α} (hf : ∀ acc x, (f acc x).length ≤ acc.length + 1) (l : List β)
    (acc : List α) : (l.foldl f acc).length ≤ acc.length + l.length := by
  induction l generalizing acc with
  | nil => exact le_rfl
  | cons x l ih =>
    have hx := hf acc x
    have hl := ih (f acc x)
    rw [List.foldl_cons, List.length_cons]
    omega

/-- R164: a directory has at most 16 rooms. -/
theorem readDirectory_length (w : Nat → Word) : (readDirectory w).length ≤ 16 := by
  refine (length_foldl_le (fun acc i => ?_) (List.range 16) []).trans (by simp)
  dsimp only
  split
  · simp
  · exact Nat.le_succ _

/-- R119: an entry created for each of some rooms, in a table with room for them all. -/
theorem RouteEngine.Sound.foldl_create (st : Settings) (rooms : List Nat) {e : RouteEngine} (he : e.Sound)
    (hbound : e.entries.length + rooms.length ≤ 256) : (rooms.foldl (fun e r => e.create st r) e).Sound := by
  induction rooms generalizing e with
  | nil => exact he
  | cons r rooms ih =>
    rw [List.length_cons] at hbound
    have hput : (e.create st r).Sound := he.put (.inr (by omega))
    have hlength : (e.create st r).entries.length ≤ e.entries.length + 1 := length_putEntry_le he.order _
    exact ih hput (by dsimp only; omega)

theorem RouteEngine.Sound.reset : RouteEngine.reset.Sound :=
  ⟨by decide, .nil, .nil, .nil, fun _ h => (nomatch h), fun _ h => (nomatch h)⟩

/-- R119: the entries for the home room and the directory fit into the empty table. -/
theorem RouteEngine.Sound.enterRun {st : Settings} (hdirectory : st.directory.length ≤ 16) :
    (RouteEngine.reset.enterRun st).eng.Sound := by
  have htimed : RouteEngine.Sound
      { RouteEngine.reset with nextRound := some (st.stationId % 30 * 1000000), nextSweep := some retryTime } :=
    { RouteEngine.Sound.reset with }
  unfold RouteEngine.enterRun
  dsimp only
  generalize hmade : st.directory.foldl _ _ = f
  have hf : f.Sound := by
    rw [← hmade]
    split
    · refine htimed.foldl_create st _ ?_
      show 0 + _ ≤ 256
      omega
    · refine RouteEngine.Sound.foldl_create st _ (htimed.put (.inr (Nat.zero_lt_succ 255))) ?_
      show 1 + _ ≤ 256
      omega
  split
  · next x hx =>
    split
    · exact hf
    · exact RouteEngine.Sound.recompute (o := f.work) hf (.inl ⟨x, RouteEngine.mem_of_entry hx, rfl⟩) st _
  · exact hf

/-! ## The invariant over steps -/

/-- R138: a set of rooms stands in ascending order. -/
theorem roomSet_ascending (rooms : List Nat) : (roomSet rooms).Pairwise (· < ·) := by
  induction rooms with
  | nil => exact .nil
  | cons r rooms ih => exact joinRoom_ascending ih

/-- Every change of the Route Engine but the entry to RUN keeps it sound. -/
theorem RouteChange.keepsSound {e f : RouteEngine} (h : RouteChange e f) (he : e.Sound) : f.Sound := by
  cases h with
  | side h =>
    simp only [RouteEngine.tables, RouteEngine.mk.injEq, true_and, and_true] at h
    obtain ⟨hentries, hpins, hprompt, hwaiting, hhand⟩ := h
    exact ⟨hentries ▸ he.bound, hentries ▸ he.order, hprompt ▸ he.promptOrder, hpins ▸ he.pinOrder, hwaiting ▸ he.waitingPins,
      hhand ▸ he.inHand⟩
  | reset => exact .reset
  | job st closed job upTo => exact he.doJob st closed job upTo
  | prompt taken rooms =>
    cases taken with
    | true => exact { he with promptOrder := he.promptOrder.sublist List.filter_sublist }
    | false => exact { he with }
  | pins st p old =>
    unfold RouteEngine.sendPins
    split
    · exact he
    · exact { he with waitingPins := fun pins h => Option.some.inj h ▸ roomSet_ascending _ }

/-- R99, R101, R115, R138: over every step. -/
theorem step_keepsRoutesOk {s t : State} (hs : RoutesOk s) (h : step s = .next t) : RoutesOk t := by
  obtain ⟨hquiet, hsound⟩ := (routesOk_iff s).1 hs
  refine (routesOk_iff t).2 ⟨step_keepsQuiet hquiet h, ?_⟩
  rcases step_routes h with ⟨hstart, e⟩ | hpath
  · rw [e, hquiet.routes (by rw [hstart]; decide)]
    exact .enterRun (readDirectory_length _)
  · exact hpath.keeps (p := RouteEngine.Sound) RouteChange.keepsSound hsound

/-- Settles O46: what `RoutesOk` says of the Route Engine is kept by each operation on it, and a station outside RUN
stays quiet. -/
theorem routeTableBoundIsKept : Obligations.RouteTableBoundIsKept := fun _ _ => step_keepsRoutesOk

end Sys2Proof.Machine
end

section
/-! PROOFS. What an advert entry makes of its room's entry and of the table, and how rooms of the pin set get entries and lose them
(O42). -/

namespace Sys2Proof.Machine

/-! ## Stored values (R102, R103) -/

/-- Of values that are one to the link, the link's. -/
theorem RouteEntry.storedFor_eq_some {x : RouteEntry} {i : Nat}
    (honce : ∀ v ∈ x.stored, ∀ w ∈ x.stored, v.link = i → w.link = i → v = w) {v : StoredValues} :
    x.storedFor i = some v ↔ v ∈ x.stored ∧ v.link = i := by
  constructor
  · intro h
    exact ⟨List.mem_of_find?_eq_some h, by simpa using List.find?_some h⟩
  · rintro ⟨hv, hlink⟩
    cases hfind : x.storedFor i with
    | none => exact absurd hlink (by simpa using List.find?_eq_none.1 hfind v hv)
    | some w =>
      have hw : w.link = i := by simpa using List.find?_some hfind
      rw [honce w (List.mem_of_find?_eq_some hfind) v hv hw hlink]

/-- R102: the links a frame serves are those to its source. -/
theorem Settings.mem_served {st : Settings} {source : Nat} {k : Link} :
    k ∈ st.served source ↔ k ∈ st.links ∧ k.neighbour = source := by
  simp [Settings.served]

section
variable {st : Settings} {source heard : Nat} {a : AdvertEntry} {x : RouteEntry}

/-- R102, R103: what is stored then: the values of the links not served, and one for each link served. -/
theorem mem_storeValues {v : StoredValues} : v ∈ (storeValues st source heard a x).stored ↔
    (v ∈ x.stored ∧ ∀ k ∈ st.links, k.neighbour = source → k.index ≠ v.link) ∨
      ∃ k ∈ st.links, k.neighbour = source ∧ v = { link := k.index, any := a.any, level := a.level, heard := heard } := by
  simp only [storeValues, mem_sortBy, List.mem_append, List.mem_filter, List.mem_map, Bool.not_eq_true', List.any_eq_false,
    decide_eq_true_eq, Settings.mem_served, and_imp, and_assoc, eq_comm (b := v), ne_eq]

/-- R102: a link served has the frame's values. -/
theorem storeValues_storedFor_served (hlinks : (st.links.map (·.index)).Nodup) {k : Link} (hk : k ∈ st.links)
    (hserved : k.neighbour = source) : (storeValues st source heard a x).storedFor k.index =
      some { link := k.index, any := a.any, level := a.level, heard := heard } := by
  have hstored : ∀ v ∈ (storeValues st source heard a x).stored, v.link = k.index →
      v = { link := k.index, any := a.any, level := a.level, heard := heard } := fun v hv hlink => by
    rcases mem_storeValues.1 hv with ⟨-, hother⟩ | ⟨j, hj, -, rfl⟩
    · exact absurd hlink.symm (hother k hk hserved)
    · obtain rfl := List.inj_on_of_nodup_map hlinks hj hk hlink
      rfl
  exact (RouteEntry.storedFor_eq_some fun v hv w hw hvi hwi => (hstored v hv hvi).trans (hstored w hw hwi).symm).2
    ⟨mem_storeValues.2 (.inr ⟨k, hk, hserved, rfl⟩), rfl⟩

/-- R102: another link keeps its values. -/
theorem storeValues_storedFor_other (honce : (x.stored.map (·.link)).Nodup) {i : Nat}
    (hother : ∀ k ∈ st.links, k.neighbour = source → k.index ≠ i) :
    (storeValues st source heard a x).storedFor i = x.storedFor i := by
  have hx : ∀ v ∈ x.stored, ∀ w ∈ x.stored, v.link = i → w.link = i → v = w := fun v hv w hw hvi hwi =>
    List.inj_on_of_nodup_map honce hv hw (hvi.trans hwi.symm)
  have hmem : ∀ v, v.link = i → (v ∈ (storeValues st source heard a x).stored ↔ v ∈ x.stored) := fun v hvi => by
    rw [mem_storeValues]
    constructor
    · rintro (⟨hv, -⟩ | ⟨k, hk, hserved, rfl⟩)
      exacts [hv, absurd hvi (hother k hk hserved)]
    · exact fun hv => .inl ⟨hv, fun k hk hserved => hvi ▸ hother k hk hserved⟩
  refine Option.ext fun v => ?_
  rw [RouteEntry.storedFor_eq_some hx, RouteEntry.storedFor_eq_some fun v hv w hw hvi hwi =>
    hx v ((hmem v hvi).1 hv) w ((hmem w hwi).1 hw) hvi hwi]
  exact and_congr_left (hmem v)

end

/-- A recomputation leaves what is stored for a link. -/
@[simp] theorem RouteEntry.judged_storedFor (st : Settings) (closed : ZoneVec) (x : RouteEntry) (i : Nat) :
    (x.judged st closed).storedFor i = x.storedFor i := by
  simp only [RouteEntry.storedFor, RouteEntry.judged_stored]

/-- R92: the entry after its recomputation raises what it raised before. -/
theorem RouteEntry.judged_raises (st : Settings) (closed : ZoneVec) (x : RouteEntry) (i : Nat) :
    (x.judged st closed).raises st closed i ↔ x.raises st closed i := by
  simp only [RouteEntry.raises, RouteEntry.held, RouteEntry.judged_storedFor]

/-! ## A recomputation and a removal anywhere in the table -/

/-- R92, R96, R106, R107, R115: a recomputation, whether or not the room has an entry. -/
theorem RouteOut.recompute_done {o : RouteOut} (h : InRoomOrder o.eng.entries) (st : Settings) (closed : ZoneVec) (x : RouteEntry) :
    (∀ r, (o.recompute st closed x).eng.entry r = if r = x.room then some (x.judged st closed) else o.eng.entry r) ∧
      WorkDone (x.changeTold st closed) (fun r => r = x.room ∧ ¬x.keepsBests st closed = true) (x.raises st closed) o
        (o.recompute st closed x) := by
  obtain ⟨hsame, hnew, hset, hat, hnotices, -, -, hframe⟩ := o.recompute_spec st closed x h
  refine ⟨fun r => ?_, ?_, ?_, hat, hnotices, hframe⟩
  · have hput : (o.recompute st closed x).eng.entry r = (o.eng.put (x.judged st closed)).entry r := by
      unfold RouteEngine.entry
      rw [RouteOut.recompute_judged]
      rfl
    rw [hput, RouteEngine.entry_put h, RouteEntry.judged_room]
  · by_cases hk : x.keepsBests st closed = true
    · obtain ⟨-, hreports⟩ := hsame (RouteEntry.keepsBests_iff.1 hk)
      rw [hreports, RouteEntry.changeTold, if_pos hk, List.append_nil]
    · obtain ⟨-, hreports⟩ := hnew (mt RouteEntry.keepsBests_iff.2 hk)
      rw [hreports, RouteEntry.changeTold, if_neg hk]
  · simpa only [RouteEntry.keepsBests_iff] using hset

/-- R107: a recomputation that changes no best leaves the prompt set as it is. -/
theorem RouteOut.recompute_promptSet {st : Settings} {closed : ZoneVec} {x : RouteEntry} (h : x.keepsBests st closed = true)
    (o : RouteOut) : (o.recompute st closed x).eng.promptSet = o.eng.promptSet := by
  unfold RouteOut.recompute
  dsimp only
  rw [if_neg (by simpa [not_or] using RouteEntry.keepsBests_iff.1 h)]
  rfl

/-- R105, R107, R115: a removal. -/
theorem RouteOut.remove_done (x : RouteEntry) (o : RouteOut) :
    (∀ r, (o.remove x).eng.entry r = if r = x.room then none else o.eng.entry r) ∧
      WorkDone [.removed x.room] (fun r => r = x.room ∧ (x.any.cost ≠ .unknown ∨ x.level.cost ≠ .unknown)) (fun _ => False) o
        (o.remove x) := by
  obtain ⟨hentry, hreports, hnotices, hset, hat, -, hframe⟩ := o.remove_spec x
  exact ⟨hentry, hreports, hset, hat, fun i => by rw [hnotices, or_false], hframe⟩

/-- A table with an entry removed is still in room order. -/
theorem RouteOut.remove_order {o : RouteOut} (h : InRoomOrder o.eng.entries) (x : RouteEntry) :
    InRoomOrder (o.remove x).eng.entries := by
  obtain ⟨-, -, -, -, -, hentries, -⟩ := o.remove_spec x
  exact hentries ▸ h.sublist (List.filter_sublist.map _)

/-- R105: a recomputation for a room without an entry once another entry is removed for it. -/
theorem RouteOut.replace_done {o : RouteOut} (h : InRoomOrder o.eng.entries) {v x : RouteEntry} (hv : v ∈ o.eng.entries)
    (hnone : o.eng.entry x.room = none) (st : Settings) (closed : ZoneVec) :
    let p := (o.remove v).recompute st closed x
    (∀ r, p.eng.entry r = if r = x.room then some (x.judged st closed) else if r = v.room then none else o.eng.entry r) ∧
      p.eng.entries.length = o.eng.entries.length ∧
      WorkDone (.removed v.room :: x.changeTold st closed)
        (fun r => (r = v.room ∧ (v.any.cost ≠ .unknown ∨ v.level.cost ≠ .unknown)) ∨ (r = x.room ∧ ¬x.keepsBests st closed = true))
        (x.raises st closed) o p := by
  intro p
  obtain ⟨hremoved, hremovedWork⟩ := RouteOut.remove_done v o
  obtain ⟨hentry, hwork⟩ := RouteOut.recompute_done (RouteOut.remove_order h v) st closed x
  obtain ⟨-, -, -, -, -, hentries, -⟩ := o.remove_spec v
  refine ⟨fun r => by rw [hentry, hremoved], ?_,
    (hremovedWork.trans hwork).congr rfl (fun _ => Iff.rfl) fun _ => or_iff_right not_false⟩
  rw [RouteOut.recompute_judged, length_putEntry_new, hentries]
  · exact length_filter_room h hv
  · intro y hy
    rw [RouteEntry.judged_room]
    exact RouteEngine.entry_eq_none.1 hnone y (List.mem_filter.1 (hentries ▸ hy)).1

/-! ## The victim and the arriving candidate (R105) -/

theorem ratherVictim_iff (x y : RouteEntry) : ratherVictim x y = true ↔
    y.any.cost.better x.any.cost = true ∨ (x.any.cost.better y.any.cost = false ∧
      (x.changeCount < y.changeCount ∨ (x.changeCount = y.changeCount ∧ y.room < x.room))) := by
  simp [ratherVictim]

theorem ratherVictim_asymm {x y : RouteEntry} (h : ratherVictim x y = true) : ratherVictim y x = false := by
  refine Bool.eq_false_iff.2 fun k => ?_
  rw [ratherVictim_iff] at h k
  rcases h with hx | ⟨hx, hcount⟩
  · rcases k with hy | ⟨hy, -⟩
    · rw [Cost.better_asymm hy] at hx
      cases hx
    · rw [hx] at hy
      cases hy
  · rcases k with hy | ⟨-, hcount'⟩
    · rw [hx] at hy
      cases hy
    · omega

/-- R105: with every entry pinned there is no victim. -/
theorem RouteEngine.victim_eq_none {e : RouteEngine} (h : ∀ x ∈ e.entries, x.pinned = true) : e.victim = none := by
  have hnone : (e.entries.filter fun x => !x.pinned) = [] := List.filter_eq_nil_iff.2 fun x hx => by simp [h x hx]
  exact pickBest_eq_none.2 hnone

/-- R105: the victim is the unpinned entry that the rule names. -/
theorem RouteEngine.victim_eq_some {e : RouteEngine} (horder : InRoomOrder e.entries) {v : RouteEntry} (h : VictimOf e v) :
    e.victim = some v := by
  obtain ⟨before, after, hs⟩ := List.append_of_mem h.held
  obtain ⟨hlow, hhigh⟩ := InRoomOrder.around (hs ▸ horder)
  have hrather : ∀ x ∈ e.entries, (!x.pinned) = true → x.room ≠ v.room → ratherVictim v x = true := fun x hx hp hroom =>
    (ratherVictim_iff v x).2 (h.worst x hx (by simpa using hp) fun hxv => hroom (by rw [hxv]))
  have hv : (!v.pinned) = true := by simp [h.unpinned]
  rw [RouteEngine.victim, hs, List.filter_append, List.filter_cons_of_pos (p := fun x : RouteEntry => !x.pinned) hv]
  refine pickBest_split (fun x hx => ?_) fun x hx => ?_
  · obtain ⟨hx, hp⟩ := List.mem_filter.1 hx
    exact hrather x (by simp [hs, hx]) hp (hlow x hx).ne
  · obtain ⟨hx, hp⟩ := List.mem_filter.1 hx
    exact ratherVictim_asymm (hrather x (by simp [hs, hx]) hp (hhigh x hx).ne')

/-- R105: the arriving candidate, the best of the links served, ranks better than a cost where one of theirs does. -/
theorem arriving_better_iff {st : Settings} {source : Nat} (hserved : ∃ k ∈ st.links, k.neighbour = source) (closed : ZoneVec)
    (a : AdvertEntry) (c : Cost) : (arriving st closed source a).better c = true ↔ ∃ k ∈ st.links, k.neighbour = source ∧
      (candidate st closed false k (some a.any)).cost.better c = true := by
  have hne : st.served source ≠ [] := by
    obtain ⟨k, hk, hsource⟩ := hserved
    exact List.ne_nil_of_mem (Settings.mem_served.2 ⟨hk, hsource⟩)
  obtain ⟨before, k, after, hs, hbest, hbefore, hafter⟩ :=
    selectBest_split (fun k => candidate st closed false k (some a.any)) hne
  have hcost : arriving st closed source a = (candidate st closed false k (some a.any)).cost := by
    rw [arriving, hbest, bestFrom_eq]
  rw [hcost]
  constructor
  · obtain ⟨hk, hsource⟩ := Settings.mem_served.1 (show k ∈ st.served source by simp [hs])
    exact fun h => ⟨k, hk, hsource, h⟩
  · rintro ⟨j, hj, hsource, h⟩
    rcases List.mem_append.1 (hs ▸ Settings.mem_served.2 ⟨hj, hsource⟩) with hj | hj
    · exact Cost.better_trans (hbefore j hj) h
    · rcases List.mem_cons.1 hj with rfl | hj
      · exact h
      · by_contra hk
        exact absurd h (by simp [Cost.better_negTrans (hafter j hj) (Bool.eq_false_iff.2 hk)])

/-! ## An advert entry for a room that has an entry, or gets one in a table with room -/

/-- R99, R100: an entry as it is created. -/
theorem freshEntry_eq (st : Settings) (pins : List Nat) (room : Nat) : freshEntry st pins room =
    { room := room, any := { cost := .unknown, link := none }, level := { cost := .unknown, link := none }, stored := []
      pinned := decide ((st.homeRoom ≠ 0 ∧ room = st.homeRoom) ∨ room ∈ st.directory ∨ room ∈ pins), changeCount := 0 } := by
  rw [← pinnedRoom_eq]
  rfl

/-- R102, R103, R106, R107: the entry with its new values, recomputed: what it keeps, and what its change of bests counts
and tells. -/
theorem storeValues_judged (st : Settings) (closed : ZoneVec) (source heard : Nat) (a : AdvertEntry) (x : RouteEntry) :
    let z := storeValues st source heard a x
    let y := z.judged st closed
    y.pinned = x.pinned ∧ (y.any = x.any ∧ y.level = x.level ↔ z.keepsBests st closed = true) ∧
      (z.keepsBests st closed = true → y.changeCount = x.changeCount ∧ z.changeTold st closed = []) ∧
      (¬z.keepsBests st closed = true → y.changeCount = (x.changeCount + 1) % 65536 ∧
        z.changeTold st closed = [.changed x.room y.any y.level]) := by
  intro z y
  refine ⟨RouteEntry.judged_pinned, ?_, fun hk => ?_, fun hk => ?_⟩
  · rw [RouteEntry.keepsBests_iff, RouteEntry.judged_any, RouteEntry.judged_level]
    rfl
  · rw [show y = z from RouteEntry.judged_of_keepsBests hk, RouteEntry.changeTold, if_pos hk]
    exact ⟨rfl, rfl⟩
  · rw [show y = _ from RouteEntry.judged_of_changed hk, RouteEntry.changeTold, if_neg hk]
    exact ⟨rfl, rfl⟩

/-- R102 to R104, R106, R107, R115. -/
theorem advertEntryUpdatesItsRoom : Claims.AdvertEntryUpdatesItsRoom := by
  intro st closed e source heard a x fresh horder hlinks honce hx o
  let z := storeValues st source heard a x
  obtain ⟨hroom, ho⟩ : x.room = a.room ∧ o = e.work.recompute st closed z := by
    rcases hx with hx | ⟨hnone, hlength, rfl⟩
    · exact ⟨RouteEngine.room_of_entry hx, RouteOut.apply_held (o := e.work) hx⟩
    · refine ⟨rfl, (RouteOut.apply_new (o := e.work) hnone hlength).trans ?_⟩
      rw [freshEntry_eq]
      rfl
  have hzroom : z.room = a.room := hroom
  obtain ⟨hentry, hwork⟩ := RouteOut.recompute_done (o := e.work) horder st closed z
  obtain ⟨htold, hraised⟩ := hwork.of_work
  obtain ⟨hpinned, hsame, hkept, hchanged⟩ := storeValues_judged st closed source heard a x
  obtain ⟨hany, hlevel⟩ := z.recomputed_judged st closed
  rw [hzroom] at hentry hwork
  rw [ho]
  refine ⟨z.judged st closed, by rw [hentry, if_pos rfl], hpinned, fun k hk hserved => ?_, fun i hother => ?_, hany.symm,
    hlevel.symm, fun i => ?_, fun h => ?_, fun h => ?_, hwork.promptAt, fun r hr => ?_⟩
  · rw [RouteEntry.judged_storedFor, storeValues_storedFor_served hlinks hk hserved]
  · rw [RouteEntry.judged_storedFor, storeValues_storedFor_other honce hother]
  · exact (hraised i).trans (z.judged_raises st closed i).symm
  · obtain ⟨hcount, hnothing⟩ := hkept (hsame.1 h)
    exact ⟨hcount, htold.trans hnothing, RouteOut.recompute_promptSet (hsame.1 h) e.work⟩
  · obtain ⟨hcount, hchange⟩ := hchanged (mt hsame.2 h)
    exact ⟨hcount, (htold.trans hchange).trans (by rw [hroom]), (hwork.promptSet _).2 (.inr ⟨rfl, mt hsame.2 h⟩)⟩
  · rw [hentry, if_neg hr]
    rfl

/-! ## An advert entry into a full table -/

/-- R105: an entry skipped, or not created. -/
theorem RouteEngine.work_raise_full (e : RouteEngine) :
    e.work.raise .routeTableFull = { eng := e, notices := 0x0800#16, reports := [] } := by
  have hmask : 0#16 ||| Notice.routeTableFull.mask = 0x0800#16 := by decide
  exact congrArg (RouteOut.mk e · []) hmask

/-- R103 to R107, R115. -/
theorem fullRouteTableReplacesOrSkips : Claims.FullRouteTableReplacesOrSkips := by
  intro st closed e source heard a horder hfull hnone hserved o skipped
  refine ⟨fun hpinned => ?_, fun v hv => ?_⟩
  · have hvictim : e.work.eng.victim = none := RouteEngine.victim_eq_none hpinned
    exact (RouteOut.apply_skips (o := e.work) hnone hfull fun v hv => by simp [hvictim] at hv).trans e.work_raise_full
  have hvictim := RouteEngine.victim_eq_some horder hv
  intro better
  have hbetter : (arriving st closed source a).better v.any.cost = true ↔ better := arriving_better_iff hserved closed a v.any.cost
  refine ⟨fun hworse => ?_, fun harrives => ?_⟩
  · refine (RouteOut.apply_skips (o := e.work) hnone hfull fun w hw => ?_).trans e.work_raise_full
    obtain rfl := Option.some.inj (hvictim.symm.trans hw)
    exact mt hbetter.1 hworse
  let x := freshEntry st e.pinSet a.room
  let z := storeValues st source heard a x
  have ho : o = (e.work.remove v).recompute st closed z :=
    RouteOut.apply_replaces (o := e.work) hnone hfull hvictim (hbetter.2 harrives)
  have hne : v.room ≠ a.room := RouteEngine.entry_eq_none.1 hnone v hv.held
  obtain ⟨hentry, hlength, hwork⟩ := RouteOut.replace_done (o := e.work) (x := z) horder hv.held hnone st closed
  have hentry : ∀ r, o.eng.entry r =
      if r = a.room then some (z.judged st closed) else if r = v.room then none else e.entry r := ho ▸ hentry
  rw [← ho] at hlength hwork
  obtain ⟨htold, hraised⟩ := hwork.of_work
  obtain ⟨hpinned, hsame, hkept, hchanged⟩ := storeValues_judged st closed source heard a x
  obtain ⟨hany, hlevel⟩ := z.recomputed_judged st closed
  refine ⟨by rw [htold]; rfl, by rw [hentry, if_neg hne, if_pos rfl], hlength,
    fun r hra hrv => by rw [hentry, if_neg hra, if_neg hrv], hwork.promptAt, z.judged st closed, by rw [hentry, if_pos rfl], ?_,
    fun hlinks k hk hsource => ?_, fun i hother => ?_, hany.symm, hlevel.symm, fun i => ?_, fun h => ?_, fun h => ?_⟩
  · rw [hpinned, show x = _ from freshEntry_eq st e.pinSet a.room, decide_eq_true_iff]
  · rw [RouteEntry.judged_storedFor, storeValues_storedFor_served hlinks hk hsource]
  · have hempty : (x.stored.map (·.link)).Nodup := List.nodup_nil
    rw [RouteEntry.judged_storedFor, storeValues_storedFor_other hempty hother]
    rfl
  · exact (hraised i).trans (z.judged_raises st closed i).symm
  · have hk : z.keepsBests st closed = true := hsame.1 h
    obtain ⟨hcount, hnothing⟩ := hkept hk
    refine ⟨hcount, htold.trans (congrArg _ hnothing), fun r => (hwork.promptSet r).trans ?_⟩
    simp only [hk, not_true_eq_false, and_false, or_false]
    rfl
  · have hk : ¬z.keepsBests st closed = true := mt hsame.2 h
    obtain ⟨hcount, hchange⟩ := hchanged hk
    refine ⟨hcount, htold.trans (congrArg _ hchange), fun r => (hwork.promptSet r).trans ?_⟩
    simp only [hk, Bool.false_eq_true, not_false_eq_true, and_true]
    rfl

/-! ## Rooms of the pin set (R100, R104, R105) -/

/-- R100, R104, R105. -/
theorem pinnedRoomsGetEntries : Claims.PinnedRoomsGetEntries := by
  intro st closed e room horder pinned fresh work made flagged
  have hfresh : freshEntry st e.pinSet room = fresh := freshEntry_eq st e.pinSet room
  refine ⟨fun hheld => RouteOut.createPinned_held (o := work) hheld, fun hnone => ⟨?_, fun hlength => ?_, fun hfull hpinned => ?_,
    fun hfull v hv => ?_⟩, fun x hx => ?_⟩
  · show work.repinRoom st room = work
    simp only [RouteOut.repinRoom, work, hnone]
  · have hmade : made = { work with eng := e.put fresh } := hfresh ▸ RouteOut.createPinned_new (o := work) hnone hlength
    rw [hmade]
    refine ⟨rfl, rfl, rfl, ?_, fun r hr => ?_⟩
    · rw [RouteEngine.entry_put horder, if_pos rfl]
    · rw [RouteEngine.entry_put horder, if_neg hr]
  · exact (RouteOut.createPinned_full (o := work) hnone hfull (RouteEngine.victim_eq_none hpinned)).trans e.work_raise_full
  · have hmade : made = { work.remove v with eng := (work.remove v).eng.put fresh } :=
      hfresh ▸ RouteOut.createPinned_replaces (o := work) hnone hfull (RouteEngine.victim_eq_some horder hv)
    have hne : v.room ≠ room := RouteEngine.entry_eq_none.1 hnone v hv.held
    obtain ⟨hremoved, hdone⟩ := RouteOut.remove_done v work
    obtain ⟨-, -, hnotices, -⟩ := work.remove_spec v
    have hentry := RouteEngine.entry_put (RouteOut.remove_order (o := work) horder v) fresh
    rw [hmade]
    refine ⟨hnotices, hdone.reports, ?_, ?_, hdone.promptSet, hdone.promptAt, fun r hr hrv => ?_⟩
    · rw [hentry, if_neg hne, hremoved, if_pos rfl]
    · rw [hentry, if_pos rfl]
    · rw [hentry, if_neg hr, hremoved, if_neg hrv]
  · have hflagged : flagged = { work with eng := e.put { x with pinned := pinned } } := by
      show work.repinRoom st room = _
      simp only [RouteOut.repinRoom, work, hx, RouteEngine.room_of_entry hx, pinnedRoom_eq]
      rfl
    obtain rfl := RouteEngine.room_of_entry hx
    rw [hflagged]
    refine ⟨rfl, ?_, fun r hr => ?_⟩
    · rw [RouteEngine.entry_put horder, if_pos rfl]
    · rw [RouteEngine.entry_put horder, if_neg hr]

/-- Settles O42: the courses of an advert entry and of a creation, each by what its removal and its recomputation do to the
table. -/
theorem advertEntryIsApplied : Obligations.AdvertEntryIsApplied :=
  ⟨advertEntryUpdatesItsRoom, fullRouteTableReplacesOrSkips, pinnedRoomsGetEntries⟩

end Sys2Proof.Machine
end

section
/-! PROOFS. The timers of the Route Engine, and the reads of one of its entries by the Composer and the Local Port (O45). -/

namespace Sys2Proof.Machine

/-! ## Timers (R108, R113, R115) -/

/-- A timer whose time has come runs out now. -/
theorem clockWait_due {clock r : Nat} (h : r ≤ clock) : clockWait clock (some r) = some 0 :=
  congrArg some (Nat.sub_eq_zero_of_le h)

/-- R113: a round has a room to list where one at the cursor or above has a best other than UNKNOWN. -/
theorem RouteEngine.roundRooms_ne_nil_iff (e : RouteEngine) : e.roundRooms ≠ [] ↔
    ∃ x ∈ e.entries, e.cursor ≤ x.room ∧ (x.any.cost ≠ .unknown ∨ x.level.cost ≠ .unknown) := by
  simp [RouteEngine.roundRooms, List.take_eq_nil_iff, RouteEntry.knownBest, or_iff_not_imp_left]

/-- R108. -/
theorem exec_sweepTimerExpiry {s : State} {r : Nat} (hr : r ≤ s.routes.clock) (h : s.routes.nextSweep = some r) :
    exec .sweepTimerExpiry s = .next { s with
      routes := { s.routes with sweepJob := true, nextSweep := some (r + 1000000) } } := by
  show execSweepTimerExpiry s = _
  rw [execSweepTimerExpiry, h, clockWait_due hr, State.after_due, h]
  rfl

/-- R113. -/
theorem exec_roundDue {s : State} {r : Nat} (hr : r ≤ s.routes.clock) (h : s.routes.nextRound = some r) :
    exec .roundDue s = .next { s with
      routes := { s.routes with cursor := 1, nextRound := some (r + 30000000) }.roundGoesOn } := by
  show execRoundDue s = _
  rw [execRoundDue, h, clockWait_due hr, State.after_due, h]
  rfl

/-- R115. -/
theorem exec_promptDue {s : State} {r : Nat} (hr : r ≤ s.routes.clock) (h : s.routes.promptAt = some r)
    (hset : s.routes.promptSet ≠ []) :
    exec .promptDue s = .next { s with routes := { s.routes with promptAt := none, promptDue := true } } := by
  have hdue : (!s.routes.promptSet.isEmpty) = true := by simpa using hset
  show execPromptDue s = _
  rw [execPromptDue, h, clockWait_due hr, State.after_due, hdue]

/-- R108, R113, R115. -/
theorem routeTimersComeRound : Claims.RouteTimersComeRound := by
  intro s r hr
  refine ⟨exec_sweepTimerExpiry hr, fun h => ?_, exec_promptDue hr⟩
  have hlists := RouteEngine.roundRooms_ne_nil_iff { s.routes with cursor := 1, nextRound := some (r + 30000000) }
  rw [exec_roundDue hr h, RouteEngine.roundGoesOn_eq]
  split
  · next hnone => rw [if_neg (mt hlists.2 (not_not.2 hnone))]
  · next hsome => rw [if_pos (hlists.1 hsome)]

/-! ## Reads (R101, R117, R118) -/

/-- R101, R118, R145: the running pass takes the entry it has asked for. -/
theorem exec_composerRouteRead {s : State} {p : Pass} {room : Nat} (hpass : s.composer.pass = some p)
    (hwants : p.wantsRoute s.settings = some room) :
    exec .composerRouteRead s = .next { s with
      composer := { s.composer with pass := some { p with routes := p.routes ++ [s.routes.view s.settings room] } } } := by
  have hroute : s.composerWantsRoute = some room := by rw [State.composerWantsRoute, hpass, Option.bind_some, hwants]
  show execComposerRouteRead s = _
  simp only [execComposerRouteRead, hroute, hpass, Option.map_some]

/-- R117: a READ ROUTE in hand waits for its room's entry. -/
theorem LocalPort.wantsRoute_of_inHand {p : LocalPort} {room : Nat} (h : p.inHand = some (.readRoute room)) :
    p.wantsRoute = some room := by
  simp only [LocalPort.wantsRoute, h]

section
variable {s : State} {room : Nat} (hhand : s.port.inHand = some (.readRoute room)) (hfree : s.composerWantsRoute = none)
include hhand hfree

/-- R101, R117: with no read of the Composer waiting, READ ROUTE is answered with the room's entry. -/
theorem exec_localPortRouteRead_found {x : RouteEntry} (hx : s.routes.entry room = some x) :
    exec .localPortRouteRead s =
      .next { s with port := s.port.complete .ok 0x07 (x.readData s.settings s.routes.kept) } := by
  show execLocalPortRouteRead s = _
  simp only [execLocalPortRouteRead, LocalPort.wantsRoute_of_inHand hhand, hfree, hx, Option.isSome_none,
    Bool.false_eq_true, if_false]

/-- R117: a room without an entry is not found. -/
theorem exec_localPortRouteRead_missing (hnone : s.routes.entry room = none) :
    exec .localPortRouteRead s = .next { s with port := s.port.complete .notFound 0x07 [] } := by
  show execLocalPortRouteRead s = _
  simp only [execLocalPortRouteRead, LocalPort.wantsRoute_of_inHand hhand, hfree, hnone, Option.isSome_none,
    Bool.false_eq_true, if_false]

end

/-- R117: the answer of READ ROUTE: the entry, the home room's own candidate, and those of every in-use link. -/
theorem RouteEntry.readData_eq (st : Settings) (kept : ZoneVec) (x : RouteEntry) : x.readData st kept =
    be16 x.room ++ [if x.pinned then 0x01 else 0x00] ++ be16 x.changeCount ++ encodeBest x.any ++ encodeBest x.level
      ++ (if st.homeRoom ≠ 0 ∧ x.room = st.homeRoom then
            encodeCost (if kept.getLsbD st.zone = true then .closed 0 else .finite 0 0) else [])
      ++ [byte st.links.length] ++ st.links.flatMap (x.linkData st kept) := by
  have hflag : byte (bitIf x.pinned 0) = if x.pinned then 0x01#8 else 0x00#8 := by cases x.pinned <;> rfl
  simp only [RouteEntry.readData, hflag, Settings.isHome_iff]
  rfl

/-- R101, R117, R118, R145. -/
theorem routeReadsReturnOneEntry : Claims.RouteReadsReturnOneEntry := by
  refine ⟨fun s p room hpass hwants => ?_, fun s room hhand hfree =>
    ⟨exec_localPortRouteRead_missing hhand hfree, fun x hx => ?_⟩⟩
  · rw [exec_composerRouteRead hpass hwants, RouteEngine.view]
    cases s.routes.entry room <;> rfl
  · rw [exec_localPortRouteRead_found hhand hfree hx, RouteEntry.readData_eq]
    rfl

/-- Settles O45: each timer is due and acts now, and each read is granted and returns the entry that stands in the table. -/
theorem routeTimersAndReads : Obligations.RouteTimersAndReads := ⟨routeTimersComeRound, routeReadsReturnOneEntry⟩

end Sys2Proof.Machine
end

section
/-! PROOFS. What the operations of the Condition List make of its contributions and of its bounds: each keeps them (O49). -/

namespace Sys2Proof.Machine

/-! ## The contributions without a source's -/

theorem dropSource_sublist (source : Nat) (cs : List Contribution) : (dropSource source cs).Sublist cs := List.filter_sublist

theorem ne_source_of_mem_dropSource {source : Nat} {cs : List Contribution} {c : Contribution} (h : c ∈ dropSource source cs) :
    c.source ≠ source := of_decide_eq_true (List.mem_filter.1 h).2

theorem dropSource_of_absent {source : Nat} {cs : List Contribution} (h : ∀ c ∈ cs, c.source ≠ source) :
    dropSource source cs = cs := List.filter_eq_self.2 fun c hc => decide_eq_true (h c hc)

theorem dropSource_length_lt {source : Nat} {cs : List Contribution} (h : ∃ c ∈ cs, c.source = source) :
    (dropSource source cs).length < cs.length := by
  obtain ⟨c, hc, hsource⟩ := h
  exact List.length_filter_lt_length_iff_exists.2 ⟨c, hc, by simpa using hsource⟩

theorem dropSource_split {older newer : List Contribution} {c : Contribution} (h : ∀ x ∈ older ++ newer, x.source ≠ c.source) :
    dropSource c.source (older ++ c :: newer) = older ++ newer := by
  calc dropSource c.source (older ++ c :: newer) = dropSource c.source (older ++ newer) := by simp [dropSource]
    _ = older ++ newer := dropSource_of_absent h

/-! ## A frame handled (R120 to R123) -/

theorem ConditionList.has_iff (source : Nat) (z : ConditionList) :
    z.has source = true ↔ ∃ c ∈ z.contributions, c.source = source := by
  simp [ConditionList.has]

theorem ConditionList.has_eq_false_iff (source : Nat) (z : ConditionList) :
    z.has source = false ↔ ∀ c ∈ z.contributions, c.source ≠ source := by
  simp [ConditionList.has]

theorem Contribution.zero_iff (c : Contribution) : c.zero = true ↔ c.closed = 0 ∧ c.notice = 0 := by
  simp [Contribution.zero]

/-- R120: the time last heard of a frame handled now. -/
theorem ConditionList.hearingOf_heardNow (z : ConditionList) : HearingOf z z.heardNow :=
  ⟨z.heardNow_spec.1, z.heardNow_spec.2, fun _ hnow hlast => foldl_max_succ_le Contribution.heard z.contributions hnow hlast⟩

/-- There is one such time. -/
theorem HearingOf.eq_heardNow {z : ConditionList} {a : Nat} (h : HearingOf z a) : a = z.heardNow :=
  Nat.le_antisymm (h.first _ z.hearingOf_heardNow.now z.hearingOf_heardNow.last)
    (z.hearingOf_heardNow.first _ h.now h.last)

section
variable {source : Nat} {z : ConditionList} (closed notice : ZoneVec)

/-- R121: a known source's contribution is replaced. -/
theorem ConditionList.handle_known (h : z.has source = true) :
    z.handle source closed notice = { list := z.hear source closed notice, spilled := false } := if_pos h

/-- R122: a new source takes a free place. -/
theorem ConditionList.handle_room (h : z.has source = false) (hroom : z.contributions.length < 16) :
    z.handle source closed notice = { list := z.hear source closed notice, spilled := false } := by
  rw [ConditionList.handle, if_neg (by simp [h]), if_pos hroom]

/-- R122: in a full list it takes the place of the oldest zero contribution. -/
theorem ConditionList.handle_zero {c : Contribution} (h : z.has source = false) (hfull : 16 ≤ z.contributions.length)
    (hzero : z.oldestZero = some c) : z.handle source closed notice =
      { list := { z with contributions := dropSource c.source z.contributions }.hear source closed notice, spilled := false } := by
  rw [ConditionList.handle, if_neg (by simp [h]), if_neg (Nat.not_lt.2 hfull), hzero]

/-- R123: with no zero contribution either it is merged into the spill record. -/
theorem ConditionList.handle_spill (h : z.has source = false) (hfull : 16 ≤ z.contributions.length) (hzero : z.oldestZero = none) :
    z.handle source closed notice = { list := z.spill closed notice, spilled := true } := by
  rw [ConditionList.handle, if_neg (by simp [h]), if_neg (Nat.not_lt.2 hfull), hzero]

end

/-! ## The bounds of the list, but for the aggregates -/

/-- What `ZonesOk` says of everything that the aggregates are formed from. -/
structure InputsOk (z : ConditionList) : Prop where
  bound : z.contributions.length ≤ 16
  sourcesOnce : (z.contributions.map (·.source)).Nodup
  heardOrder : (z.contributions.map (·.heard)).Pairwise (· < ·)
  clear : z.spillAt = none → z.spillClosed = 0 ∧ z.spillNotice = 0

theorem zonesOk_iff (z : ConditionList) : ZonesOk z ↔ InputsOk z ∧ z.aggClosed = z.closedOr ∧ z.aggNotice = z.noticeOr :=
  ⟨fun ⟨h1, h2, h3, h4, h5, h6⟩ => ⟨⟨h1, h2, h3, h4⟩, h5, h6⟩, fun ⟨⟨h1, h2, h3, h4⟩, h5, h6⟩ => ⟨h1, h2, h3, h4, h5, h6⟩⟩

theorem ZonesOk.inputs {z : ConditionList} (h : ZonesOk z) : InputsOk z := ((zonesOk_iff z).1 h).1

/-- R127: aggregates just formed are those of the list. -/
theorem InputsOk.aggregate {z : ConditionList} (h : InputsOk z) : ZonesOk z.aggregate :=
  ⟨h.bound, h.sourcesOnce, h.heardOrder, h.clear, rfl, rfl⟩

section
variable {z : ConditionList} (h : InputsOk z)
include h

/-- R124: a contribution leaves. -/
theorem InputsOk.expire (source : Nat) :
    InputsOk { z with contributions := dropSource source z.contributions } where
  bound := (dropSource_sublist source _).length_le.trans h.bound
  sourcesOnce := h.sourcesOnce.sublist ((dropSource_sublist source _).map _)
  heardOrder := h.heardOrder.sublist ((dropSource_sublist source _).map _)
  clear := h.clear

/-- R121, R122: a contribution heard now stands last, later than every other and alone with its source. -/
theorem InputsOk.hear {source : Nat} (closed notice : ZoneVec) (hroom : (dropSource source z.contributions).length < 16) :
    InputsOk (z.hear source closed notice) where
  bound := by
    simp only [ConditionList.hear, List.length_append, List.length_singleton]
    exact hroom
  sourcesOnce := by
    simp only [ConditionList.hear, List.map_append, List.map_singleton]
    refine (h.expire source).sourcesOnce.append (List.nodup_singleton _) ?_
    rw [List.disjoint_singleton, List.mem_map]
    rintro ⟨c, hc, hsource⟩
    exact ne_source_of_mem_dropSource hc hsource
  heardOrder := by
    simp only [ConditionList.hear, List.map_append, List.map_singleton]
    refine List.pairwise_append.2 ⟨(h.expire source).heardOrder, List.pairwise_singleton _ _, ?_⟩
    simp only [List.forall_mem_map, List.mem_singleton, forall_eq]
    exact fun c hc => z.heardNow_spec.2 c ((dropSource_sublist source _).subset hc)
  clear := h.clear

/-- R121 to R123: a frame handled. -/
theorem InputsOk.handle (source : Nat) (closed notice : ZoneVec) : InputsOk (z.handle source closed notice).list := by
  cases hknown : z.has source with
  | true =>
    rw [ConditionList.handle_known closed notice hknown]
    exact h.hear closed notice ((dropSource_length_lt ((z.has_iff source).1 hknown)).trans_le h.bound)
  | false =>
    rcases Nat.lt_or_ge z.contributions.length 16 with hroom | hfull
    · rw [ConditionList.handle_room closed notice hknown hroom]
      exact h.hear closed notice ((dropSource_sublist source _).length_le.trans_lt hroom)
    · cases hzero : z.oldestZero with
      | some c =>
        have hleft : (dropSource c.source z.contributions).length < 16 :=
          (dropSource_length_lt ⟨c, List.mem_of_find?_eq_some hzero, rfl⟩).trans_le h.bound
        rw [ConditionList.handle_zero closed notice hknown hfull hzero]
        exact (h.expire c.source).hear closed notice ((dropSource_sublist source _).length_le.trans_lt hleft)
      | none =>
        rw [ConditionList.handle_spill closed notice hknown hfull hzero]
        exact ⟨h.bound, h.sourcesOnce, h.heardOrder, fun hclear => nomatch hclear⟩

/-- R123: the spill record cleared. -/
theorem InputsOk.clearSpill : InputsOk z.clearSpill := ⟨h.bound, h.sourcesOnce, h.heardOrder, fun _ => ⟨rfl, rfl⟩⟩

/-- R125: the own vectors replaced. -/
theorem InputsOk.post (closed notice : ZoneVec) : InputsOk { z with ownClosed := closed, ownNotice := notice } :=
  ⟨h.bound, h.sourcesOnce, h.heardOrder, h.clear⟩

end

/-- R126: what follows an offer of the own frame is its schedule alone. -/
theorem ZonesOk.ownOffered {z : ConditionList} (h : ZonesOk z) (taken : Bool) : ZonesOk (z.ownOffered taken) := by
  cases taken <;> exact ⟨h.bound, h.sourcesOnce, h.heardOrder, h.clear, h.closed, h.notice⟩

end Sys2Proof.Machine
end

section
/-! PROOFS. What a command can do to the Condition List, said once: every step is a chain of the changes listed in `ZoneChange`. Each
of them keeps the list's bounds and its aggregates, and so does every step (O49). -/

namespace Sys2Proof.Machine

/-! ## Work of the lines and of Reception -/

/-- The state without what the hall lines, the Transmit Queue and Reception work on, and without the notices. -/
def State.offLine (s : State) : State :=
  { s with
    lineA := Line.reset, lineB := Line.reset, txQueue := [], ownSeq := 0, dups := [], inbound := []
    port := { s.port with notices := 0 } }

theorem State.zones_of_offLine {s t : State} (h : t.offLine = s.offLine) : t.zones = s.zones := by
  have e := congrArg State.zones h
  exact e

@[simp] theorem State.setLine_offLine (l : LineId) (x : Line) (s : State) : (s.setLine l x).offLine = s.offLine := by
  cases l <;> rfl

@[simp] theorem State.withQueue_offLine (q : List TxFrame) (s : State) : (s.withQueue q).offLine = s.offLine := rfl

@[simp] theorem State.raise_offLine (n : Notice) (s : State) : (s.raise n).offLine = s.offLine := rfl

@[simp] theorem State.choose_offLine (l : LineId) (s : State) : (s.choose l).offLine = s.offLine := by
  rw [State.choose_frame]; rfl

@[simp] theorem State.transmit_offLine (l : LineId) (s : State) : (s.transmit l).offLine = s.offLine := by
  rw [State.transmit_frame]; rfl

@[simp] theorem State.offer_offLine (b : Body) (refresh prompt : Bool) (s : State) :
    (s.offer b refresh prompt).offLine = s.offLine := by
  rw [State.offer_frame]; rfl

@[simp] theorem State.beaconIndication_offLine (s : State) : s.beaconIndication.offLine = s.offLine := by
  rw [State.beaconIndication_frame]; rfl

@[simp] theorem State.inboundOffer_offLine (f : InFrame) (s : State) : (s.inboundOffer f).offLine = s.offLine := by
  unfold State.inboundOffer
  repeat' split
  all_goals rfl

@[simp] theorem State.enterDown_offLine (l : LineId) (s : State) : (s.enterDown l).offLine = s.offLine :=
  State.setLine_offLine ..

@[simp] theorem State.sentOn_offLine (l : LineId) (s : State) : (s.sentOn l).offLine = s.offLine := State.setLine_offLine ..

@[simp] theorem State.enterStuck_offLine (l : LineId) (s : State) : (s.enterStuck l).offLine = s.offLine :=
  State.setLine_offLine ..

@[simp] theorem State.collide_offLine (l : LineId) (s : State) : (s.collide l).offLine = s.offLine := by
  unfold State.collide
  dsimp only
  split <;> simp

@[simp] theorem State.afterGap_offLine (l : LineId) (draw : Nat) (s : State) : (s.afterGap l draw).offLine = s.offLine := by
  unfold State.afterGap
  repeat' split
  all_goals simp

@[simp] theorem State.goBusy_offLine (l : LineId) (s : State) : (s.goBusy l).offLine = s.offLine := by
  unfold State.goBusy
  dsimp only
  repeat' split
  all_goals simp

@[simp] theorem State.countDone_offLine (l : LineId) (s : State) : (s.countDone l).offLine = s.offLine := by
  unfold State.countDone
  repeat' split
  all_goals simp

@[simp] theorem State.sortFrame_offLine (f : RawFrame) (arrival : Stamp) (s : State) :
    (s.sortFrame f arrival).offLine = s.offLine := by
  unfold State.sortFrame
  dsimp only
  repeat' split
  exacts [rfl, rfl, rfl, State.inboundOffer_offLine _ _, rfl]

/-! ## Operations outside the Condition List -/

@[simp] theorem State.offer_zones (b : Body) (refresh prompt : Bool) (s : State) : (s.offer b refresh prompt).zones = s.zones :=
  State.zones_of_offLine (State.offer_offLine b refresh prompt s)

@[simp] theorem State.beaconIndication_zones (s : State) : s.beaconIndication.zones = s.zones :=
  State.zones_of_offLine (State.beaconIndication_offLine s)

@[simp] theorem State.timeEvent_zones (o : TimeOut) (s : State) : (s.timeEvent o).zones = s.zones := by
  rw [State.timeEvent_frame]

theorem State.doJob_zones (job : Job) (upTo : Option Nat) (s : State) : (s.doJob job upTo).zones = s.zones := by
  unfold State.doJob
  split <;> rfl

@[simp] theorem State.buildRound_zones (s : State) : s.buildRound.zones = s.zones := by
  unfold State.buildRound
  dsimp only
  split
  exacts [rfl, State.offer_zones ..]

theorem State.announce_zones (r : SessionRecord) (s : State) : (s.announce r).zones = s.zones := by
  unfold State.announce
  dsimp only
  repeat' split
  all_goals simp

theorem State.mergePost_zones (r : SessionRecord) (s : State) : (s.mergePost r).zones = s.zones := by
  unfold State.mergePost
  dsimp only
  split
  exacts [State.announce_zones r _, rfl]

theorem State.endPass_zones (p : Pass) (s : State) : (s.endPass p).zones = s.zones := by
  unfold State.endPass
  split <;> rfl

theorem State.takeReadSession_zones (body : List Byte) (s : State) : (s.takeReadSession body).zones = s.zones := by
  unfold State.takeReadSession
  repeat' split
  all_goals rfl

theorem State.takeReadRoute_zones (room : Nat) (s : State) : (s.takeReadRoute room).zones = s.zones := by
  unfold State.takeReadRoute
  split <;> rfl

theorem State.readPlate_zones (s : State) : s.readPlate.zones = s.zones := by
  unfold State.readPlate
  split <;> rfl

theorem State.start_zones (s : State) : s.start.zones = s.zones := by
  unfold State.start
  repeat' split
  all_goals rfl

/-! ## The changes of the Condition List -/

/-- One change of the Condition List; every one of them but the passing of time, an offer and a reset ends with the forming of the
aggregates (R127). -/
inductive ZoneChange : ConditionList → ConditionList → Prop
  | time (n : Nat) (z : ConditionList) : ZoneChange z { z with clock := z.clock + n }
  | frame (source : Nat) (closed notice : ZoneVec) (z : ConditionList) :
      ZoneChange z (z.handle source closed notice).list.aggregate
  | expiry (source : Nat) (z : ConditionList) :
      ZoneChange z { z with contributions := dropSource source z.contributions }.aggregate
  | spillClear (z : ConditionList) : ZoneChange z z.clearSpill.aggregate
  | post (closed notice : ZoneVec) (z : ConditionList) :
      ZoneChange z { z with ownClosed := closed, ownNotice := notice }.aggregate
  | offered (taken : Bool) (z : ConditionList) : ZoneChange z (z.ownOffered taken)
  | reset (z : ConditionList) : ZoneChange z ConditionList.reset

/-- R120, R123, R127: each change keeps the list's bounds and the aggregates equal to the OR of their inputs. -/
theorem ZoneChange.keeps {z y : ConditionList} (h : ZoneChange z y) (hz : ZonesOk z) : ZonesOk y := by
  cases h with
  | time n => exact ⟨hz.bound, hz.sourcesOnce, hz.heardOrder, hz.clear, hz.closed, hz.notice⟩
  | frame source closed notice => exact (hz.inputs.handle source closed notice).aggregate
  | expiry source => exact (hz.inputs.expire source).aggregate
  | spillClear => exact hz.inputs.clearSpill.aggregate
  | post closed notice => exact (hz.inputs.post closed notice).aggregate
  | offered taken => exact hz.ownOffered taken
  | reset =>
    obtain ⟨-, -, -, -, -, -, -, hreset, -⟩ := resetMeetsEveryInvariant
    exact hreset

/-- From one state to the next the Condition List changes by these, one after the other. -/
def ZonePath (s t : State) : Prop := Relation.ReflTransGen ZoneChange s.zones t.zones

theorem ZonePath.refl (s : State) : ZonePath s s := Relation.ReflTransGen.refl

theorem ZonePath.trans {s t u : State} (h : ZonePath s t) (k : ZonePath t u) : ZonePath s u := Relation.ReflTransGen.trans h k

theorem ZonePath.single {s t : State} (h : ZoneChange s.zones t.zones) : ZonePath s t := Relation.ReflTransGen.single h

theorem ZonePath.of_eq {s t : State} (h : t.zones = s.zones) : ZonePath s t := by
  rw [ZonePath, h]

/-- Work of the lines and of Reception leaves the list as it is. -/
theorem ZonePath.offLine {s t : State} (h : t.offLine = s.offLine) : ZonePath s t := .of_eq (State.zones_of_offLine h)

theorem ZonePath.keeps {s t : State} (h : ZonePath s t) (hs : ZonesOk s.zones) : ZonesOk t.zones := by
  unfold ZonePath at h
  generalize t.zones = z at h ⊢
  induction h with
  | refl => exact hs
  | tail _ hchange ih => exact hchange.keeps ih

/-- R128: time that passes moves the list clock alone. -/
theorem ZonePath.elapse (n : Nat) (s : State) : ZonePath s (s.elapse n) :=
  .single (State.elapse_zones n s ▸ .time (s.runTime n) s.zones)

theorem ZonePath.after {f : State → State} (h : ∀ u, ZonePath u (f u)) (w : Option Nat) (s : State) : ZonePath s (s.after w f) := by
  rcases s.after_cases w f with ⟨-, e⟩ | ⟨n, -, e⟩ <;> rw [e]
  exacts [.refl s, (ZonePath.elapse n s).trans (h _)]

/-- An event that takes place outside the Condition List. -/
theorem ZonePath.afterSide {f : State → State} {w : Option Nat} {s : State} (h : ∀ u, (f u).zones = u.zones) :
    ZonePath s (s.after w f) := .after (fun u => .of_eq (h u)) w s

/-- An event of the lines. -/
theorem ZonePath.afterOffLine {f : State → State} {w : Option Nat} {s : State} (h : ∀ u, (f u).offLine = u.offLine) :
    ZonePath s (s.after w f) := .afterSide fun u => State.zones_of_offLine (h u)

theorem ZonePath.request {code : Nat} {ok : Bool} {allowed : Mode → Bool} {act : State → State} {s : State}
    (h : ZonePath s (act s)) : ZonePath s (s.request code ok allowed act) := by
  rcases State.request_cases code ok allowed act s with e | ⟨st, e⟩ | ⟨-, -, -, -, -, e⟩ <;> rw [e]
  exacts [.refl s, .of_eq rfl, h]

/-- An event that comes about under a condition. -/
theorem ZonePath.when {c : Prop} [Decidable c] {s t : State} (h : ZonePath s t) : ZonePath s (if c then t else s) := by
  split
  exacts [h, .refl s]

theorem State.withZones_zones (z : ConditionList) (s : State) : (s.withZones z).zones = z.aggregate := by
  rw [State.withZones_frame]

/-- R127: an event that leaves a new list, and perhaps changes other blocks, forms the aggregates. -/
theorem ZonePath.withZones {s t : State} {z : ConditionList} (h : ZoneChange s.zones z.aggregate) : ZonePath s (t.withZones z) :=
  .single ((State.withZones_zones z t).symm ▸ h)

/-- R126: the own frame offered. -/
theorem ZonePath.offerOwn (s : State) : ZonePath s s.offerOwn := by
  refine .single ?_
  simp only [State.offerOwn, State.offer_zones]
  exact .offered _ _

/-! ## Every command -/

/-- Every command answers a next state, and changes the Condition List by these changes alone. -/
theorem exec_zonePath (c : Instr) (s : State) : ∃ t, exec c s = .next t ∧ ZonePath s t := by
  have setLine (l : LineId) (x : Line) (u : State) : ZonePath u (u.setLine l x) := .of_eq (State.setLine_zones ..)
  cases c with
  | resetNAssert => exact ⟨_, rfl, .single (.reset _)⟩
  | resetNRelease x d => exact ⟨_, rfl, .when (.of_eq (State.start_zones _))⟩
  | conditionHandover =>
    refine ⟨_, rfl, ?_⟩
    split
    · split
      exacts [.withZones (.frame _ _ _ s.zones), .refl s]
    · exact .refl s
  | contributionExpiry source => exact ⟨_, rfl, .after (fun u => .withZones (.expiry source u.zones)) _ s⟩
  | spillClear => exact ⟨_, rfl, .after (fun u => .withZones (.spillClear u.zones)) _ s⟩
  | postZones body =>
    refine ⟨_, rfl, .request ?_⟩
    split
    exacts [(ZonePath.withZones (.post _ _ s.zones)).trans (.offerOwn _), .refl s]
  | ownFrameRetry | ownFrameResend => exact ⟨_, rfl, .after .offerOwn _ s⟩
  | lineIdleGap l draw => exact ⟨_, rfl, .when ((setLine l _ s).trans (.afterOffLine (State.afterGap_offLine l draw)))⟩
  | lineBusy l => exact ⟨_, rfl, .when (.offLine (State.goBusy_offLine l s))⟩
  | backoffExpiry l => exact ⟨_, rfl, .afterOffLine (State.countDone_offLine l)⟩
  | echoFailure l =>
    refine ⟨_, rfl, .when ?_⟩
    split
    exacts [.offLine (State.enterDown_offLine l s), setLine l _ s]
  | collision l => exact ⟨_, rfl, .when (.offLine (State.collide_offLine l s))⟩
  | frameSent l => exact ⟨_, rfl, .afterOffLine (State.sentOn_offLine l)⟩
  | carrierStuck l =>
    refine ⟨_, rfl, ?_⟩
    split
    exacts [(setLine l _ s).trans (.afterOffLine (State.enterStuck_offLine l)), .refl s]
  | stuckLineRecovery l => exact ⟨_, rfl, .when ((setLine l _ s).trans (.after (fun u => setLine l _ u) _ _))⟩
  | startDelimiter l =>
    refine ⟨_, rfl, .when (.trans ?_ (setLine l _ _))⟩
    split
    exacts [.refl s, .offLine (State.goBusy_offLine l s)]
  | frameEnd l bytes =>
    refine ⟨_, rfl, ?_⟩
    split
    · dsimp only
      split
      exacts [(setLine l _ s).trans (.offLine (State.sortFrame_offLine _ _ _)), setLine l _ s]
    · exact .refl s
  | beaconHandover =>
    refine ⟨_, rfl, .of_eq ?_⟩
    split
    · split
      exacts [State.timeEvent_zones _ _, rfl]
    · rfl
  | roundEnd => exact ⟨_, rfl, .afterSide fun u => State.timeEvent_zones _ u⟩
  | beaconTimerExpiry => exact ⟨_, rfl, .afterSide fun u => State.beaconIndication_zones { u with time := _ }⟩
  | setTime body =>
    refine ⟨_, rfl, .request (.of_eq ?_)⟩
    split
    · split
      exacts [(State.beaconIndication_zones _).trans (State.timeEvent_zones _ s), rfl]
    · rfl
  | postingBufferMerge =>
    refine ⟨_, rfl, ?_⟩
    split
    · refine .when (.of_eq ?_)
      split
      exacts [State.mergePost_zones _ s, rfl]
    · exact .refl s
  | refreshScanGrant =>
    refine ⟨_, rfl, ?_⟩
    split
    · refine .when (.of_eq ?_)
      dsimp only
      split
      · split
        exacts [State.offer_zones _ _ _ _, rfl]
      · rfl
    · exact .refl s
  | advertJob | conditionRecomputation | pinSetUpdate | sweep => exact ⟨_, rfl, .of_eq (State.doJob_zones _ _ s)⟩
  | frameBuilding =>
    refine ⟨_, rfl, .when (.of_eq ?_)⟩
    split
    exacts [State.offer_zones _ _ _ s, State.buildRound_zones s]
  | roundRetry =>
    refine ⟨_, rfl, .afterSide fun u => ?_⟩
    dsimp only
    split
    exacts [State.buildRound_zones _, rfl]
  | passEnd =>
    refine ⟨_, rfl, ?_⟩
    split
    exacts [.when (.of_eq (State.endPass_zones _ s)), .refl s]
  | inboundMerge | housekeepingRemoval | composerSessionRead | localPortSessionRead | advertHandover | composerRouteRead
  | localPortRouteRead | panelAck =>
    refine ⟨_, rfl, .of_eq ?_⟩
    repeat' split
    all_goals rfl
  | duplicateEntryExpiry | minuteEvent | refreshDue | tombstoneExpiry | sweepTimerExpiry | roundDue | promptDue
  | validUntilReached | panelIntervalExpiry | plateClockedOut | ackTimeout | busyTimeout | faultTimerExpiry =>
    exact ⟨_, rfl, .afterSide fun _ => rfl⟩
  | panelBusyFall | panelHoldFall | panelHoldRise | pgmSupplyFall => exact ⟨_, rfl, .of_eq rfl⟩
  | readStatus | lineRestart | postSession => exact ⟨_, rfl, .request (.of_eq rfl)⟩
  | ackNotices | setAttentionEnables | clearAttentionEnables => exact ⟨_, rfl, .request (.of_eq (by split <;> rfl))⟩
  | readPlate => exact ⟨_, rfl, .request (.of_eq (State.readPlate_zones s))⟩
  | readSessionByIndex body | readSessionNextChanged body =>
    exact ⟨_, rfl, .request (.of_eq (State.takeReadSession_zones body s))⟩
  | readRoute body =>
    refine ⟨_, rfl, .request (.of_eq ?_)⟩
    split
    exacts [State.takeReadRoute_zones _ s, rfl]
  | programWord body supply =>
    have level : ZonePath s (s.supplyLevel supply) := .of_eq rfl
    refine ⟨_, rfl, level.trans (.request (.of_eq ?_))⟩
    split
    exacts [by rw [State.judgeProgram_frame], rfl]
  | programCycleEnd => exact ⟨_, rfl, .afterSide fun u => by rw [State.endCycle_frame]⟩
  | verifyWord body supply =>
    have level : ZonePath s (s.supplyLevel supply) := .of_eq rfl
    refine ⟨_, rfl, level.trans (.request (.of_eq ?_))⟩
    split
    exacts [by rw [State.judgeVerify_frame], rfl]
  | requestCodeNamesNoRequest code body => exact ⟨_, rfl, .when (.request (.refl s))⟩

/-! ## Steps -/

/-- What a step can do to the Condition List. -/
theorem step_zonePath {s t : State} (h : step s = .next t) : ZonePath s t := by
  rcases step_origin h with ⟨c, p, h⟩ | ⟨job, rfl⟩ | rfl
  · obtain ⟨u, hu, hpath⟩ := exec_zonePath c { s with pending := p }
    obtain rfl := Host.Outcome.next.inj (hu.symm.trans h)
    exact .trans (t := { s with pending := p }) (.of_eq rfl) hpath
  · exact .of_eq (State.doJob_zones job _ s)
  · exact .elapse 1 s

/-- Settles O49: each change of the Condition List keeps its bounds and its aggregates, and so does every step. -/
theorem aggregatesEqualTheOr : Obligations.AggregatesEqualTheOr := fun _ _ hs h => (step_zonePath h).keeps hs

end Sys2Proof.Machine
end

section
/-! PROOFS. A CONDITION frame is placed, and the aggregates are formed and told (O47). -/

namespace Sys2Proof.Machine

/-! ## CONDITION_HANDOVER (R120 to R123) -/

/-- R34: the head CONDITION frame is handled, and the aggregates are formed of what it leaves. -/
theorem exec_conditionHandover {s : State} {f : InFrame} {rest : List InFrame} {closed notice : ZoneVec}
    (hin : s.inbound = f :: rest) (hbody : f.body = .condition closed notice) {z : ConditionList} {spilled : Bool}
    (hplaced : s.zones.handle f.source closed notice = { list := z, spilled := spilled }) :
    exec .conditionHandover s = .next
      (State.withZones z { s with inbound := rest, port := s.port.raiseIf spilled .conditionSpill }) := by
  show execConditionHandover s = _
  simp only [execConditionHandover, hin, hbody, hplaced]

/-- R122: of a list in the order of times last heard the oldest zero contribution is the first. -/
theorem ConditionList.oldestZero_split {z : ConditionList} {older newer : List Contribution} {c : Contribution}
    (h : z.contributions = older ++ c :: newer) (hc : c.zero = true) (holder : ∀ x ∈ older, ¬(x.closed = 0 ∧ x.notice = 0)) :
    z.oldestZero = some c := by
  refine List.find?_eq_some_iff_append.2 ⟨hc, older, newer, h, fun x hx => ?_⟩
  rw [Bool.not_eq_true', Bool.eq_false_iff]
  exact mt x.zero_iff.1 (holder x hx)

/-- R120 to R123. -/
theorem conditionFrameIsPlaced : Claims.ConditionFrameIsPlaced := by
  intro s f rest closed notice heard hin hbody hheard cs new t
  obtain rfl := hheard.eq_heardNow
  refine ⟨fun hknown => ?_, fun hnew => ⟨fun hroom => ?_, fun older c newer last hfull hsplit hclosed hnotice hlast holder hother => ?_,
    fun hfull hnonzero => ?_⟩⟩
  · exact exec_conditionHandover hin hbody (ConditionList.handle_known _ _ ((s.zones.has_iff _).2 hknown))
  · rw [exec_conditionHandover hin hbody (ConditionList.handle_room _ _ ((s.zones.has_eq_false_iff _).2 hnew) hroom),
      ConditionList.hear, dropSource_of_absent hnew]
    rfl
  · have hzero := ConditionList.oldestZero_split hsplit (c.zero_iff.2 ⟨hclosed, hnotice⟩) holder
    have hleft : ∀ x ∈ older ++ newer, x.source ≠ f.source := fun x hx =>
      hnew x (hsplit ▸ (List.sublist_cons_self c newer).append_left older |>.subset hx)
    have hcs : s.zones.contributions = older ++ c :: newer := hsplit
    obtain rfl := hlast.eq_heardNow
    rw [exec_conditionHandover hin hbody (ConditionList.handle_zero _ _ ((s.zones.has_eq_false_iff _).2 hnew) hfull hzero),
      ConditionList.hear, hcs, dropSource_split hother, dropSource_of_absent hleft]
    rfl
  · have hzero : s.zones.oldestZero = none := List.find?_eq_none.2 fun c hc => mt c.zero_iff.1 (hnonzero c hc)
    rw [exec_conditionHandover hin hbody (ConditionList.handle_spill _ _ ((s.zones.has_eq_false_iff _).2 hnew) hfull hzero)]
    rfl

/-! ## The aggregates are told (R110, R127) -/

theorem changeConcerns_iff (st : Settings) (closed kept : ZoneVec) : changeConcerns st closed kept = true ↔
    closed.getLsbD st.zone ≠ kept.getLsbD st.zone ∨ ∃ k ∈ st.links, closed.getLsbD k.zone ≠ kept.getLsbD k.zone := by
  simp [changeConcerns, zoneSet]

theorem ConditionList.sameAggregates_iff (z old : ConditionList) :
    z.sameAggregates old = true ↔ z.aggClosed = old.aggClosed ∧ z.aggNotice = old.aggNotice := by
  simp [ConditionList.sameAggregates]

/-- R110: the Route Engine is told of a change of CLOSED alone. -/
theorem State.withZones_routes (z : ConditionList) (s : State) : (s.withZones z).routes =
    if z.closedOr = s.zones.aggClosed then s.routes else s.routes.closedReported s.settings z.closedOr := by
  unfold State.withZones
  dsimp only
  split <;> rfl

/-- R127, R143: the Composer is told once of a change of either. -/
theorem State.withZones_composer (z : ConditionList) (s : State) : (s.withZones z).composer =
    if z.closedOr = s.zones.aggClosed ∧ z.noticeOr = s.zones.aggNotice then s.composer
    else s.composer.onZones s.settings { s.passNow with closed := z.closedOr, notice := z.noticeOr } := by
  have hsame := z.aggregate.sameAggregates_iff s.zones
  unfold State.withZones
  dsimp only
  split
  · next h => exact (if_pos (hsame.1 h)).symm
  · next h => exact (if_neg (mt hsame.2 h)).symm

/-- R110, R127. -/
theorem aggregatesAreFormedAndTold : Claims.AggregatesAreFormedAndTold := by
  intro s z closed notice concerns t
  have hroutes : t.routes = if closed = s.zones.aggClosed then s.routes else s.routes.closedReported s.settings closed :=
    State.withZones_routes z s
  have hcomposer : t.composer = if closed = s.zones.aggClosed ∧ notice = s.zones.aggNotice then s.composer
      else s.composer.onZones s.settings { s.passNow with closed := closed, notice := notice } := State.withZones_composer z s
  have hconcerns : changeConcerns s.settings closed s.routes.kept = true ↔ concerns := changeConcerns_iff ..
  have hzones : t.zones = z.aggregate := State.withZones_zones z s
  refine ⟨hzones ▸ State.withZones_frame z s, hzones, fun h => hroutes.trans (if_pos h), fun h hc => ?_, fun h hc => ?_,
    fun hclosed hnotice => hcomposer.trans (if_pos ⟨hclosed, hnotice⟩), fun h => hcomposer.trans (if_neg h)⟩
  · rw [hroutes, if_neg h, RouteEngine.closedReported, if_pos (hconcerns.2 hc)]
  · rw [hroutes, if_neg h, RouteEngine.closedReported, if_neg (mt hconcerns.1 hc)]

/-- Settles O47. -/
theorem conditionFramesAreHandled : Obligations.ConditionFramesAreHandled :=
  ⟨conditionFrameIsPlaced, aggregatesAreFormedAndTold⟩

end Sys2Proof.Machine
end

section
/-! PROOFS. The timers of the Condition List, the own frame, and POST ZONES (O48). -/

namespace Sys2Proof.Machine

/-! ## CONTRIBUTION_EXPIRY and SPILL_CLEAR (R123, R124) -/

/-- R124: a contribution is due 30 s after it was last heard. -/
theorem exec_contributionExpiry {s : State} {older newer : List Contribution} {c : Contribution}
    (h : s.zones.contributions = older ++ c :: newer) (hother : ∀ x ∈ older ++ newer, x.source ≠ c.source)
    (hdue : c.heard + 30000000 ≤ s.zones.clock) : exec (.contributionExpiry c.source) s =
      .next (s.withZones { s.zones with contributions := older ++ newer }) := by
  have hfind : s.zones.contributions.find? (fun x => decide (x.source = c.source)) = some c := by
    refine List.find?_eq_some_iff_append.2 ⟨decide_eq_true rfl, older, newer, h, fun x hx => ?_⟩
    simpa using hother x (List.mem_append_left _ hx)
  have hwait : s.zones.expiryWait c.source = some 0 := by
    rw [ConditionList.expiryWait, hfind]
    exact clockWait_due hdue
  show execContributionExpiry c.source s = _
  rw [execContributionExpiry, hwait, State.after_due, h, dropSource_split hother]

/-- R123: the spill record is due 30 s after it was last merged. -/
theorem exec_spillClear {s : State} {m : Nat} (h : s.zones.spillAt = some m) (hdue : m + 30000000 ≤ s.zones.clock) :
    exec .spillClear s = .next (s.withZones { s.zones with spillClosed := 0, spillNotice := 0, spillAt := none }) := by
  have hwait : clockWait s.zones.clock (s.zones.spillAt.map (· + zoneLife)) = some 0 := by
    rw [h]
    exact clockWait_due hdue
  show execSpillClear s = _
  rw [execSpillClear, hwait, State.after_due]
  rfl

/-! ## The own frame (R126) -/

theorem ConditionList.declares_iff (z : ConditionList) : z.declares = true ↔ ¬(z.ownClosed = 0 ∧ z.ownNotice = 0) := by
  simp [ConditionList.declares, or_iff_not_imp_left]

/-- R126: an own frame taken is sent again after 10 s, unless both vectors are empty. -/
theorem State.offerOwn_taken {s : State} (h : s.takes (.condition s.zones.ownClosed s.zones.ownNotice) = true) :
    s.offerOwn = { s.offer (.condition s.zones.ownClosed s.zones.ownNotice) false false with
      zones := { s.zones with
        ownPending := false, retryAt := none
        resendAt := if s.zones.ownClosed = 0 ∧ s.zones.ownNotice = 0 then none else some (s.zones.clock + 10000000) } } := by
  have hresend : (if s.zones.declares = true then some (s.zones.clock + resendTime) else none) =
      if s.zones.ownClosed = 0 ∧ s.zones.ownNotice = 0 then none else some (s.zones.clock + 10000000) := by
    simp only [ConditionList.declares_iff, ite_not]
    rfl
  simp only [State.offerOwn, State.offer_zones, ConditionList.ownBody, h, ConditionList.ownOffered, if_true, hresend]

/-- R126: a refused one is offered again after 1 s. -/
theorem State.offerOwn_refused {s : State} (h : s.takes (.condition s.zones.ownClosed s.zones.ownNotice) = false) :
    s.offerOwn = { s with
      zones := { s.zones with
        ownPending := true, resendAt := none, retryAt := some (s.zones.clock + 1000000) } } := by
  simp only [State.offerOwn, ConditionList.ownBody, State.offer_refused h, h]
  rfl

/-- R126: the retry of a pending own frame and its resending offer it when they are due. -/
theorem exec_ownFrame_due {s : State} {c : Instr} {r : Nat}
    (h : (c = .ownFrameRetry ∧ s.zones.ownPending = true ∧ s.zones.retryAt = some r) ∨
      (c = .ownFrameResend ∧ s.zones.resendAt = some r)) (hdue : r ≤ s.zones.clock) : exec c s = .next s.offerOwn := by
  rcases h with ⟨rfl, hpending, hretry⟩ | ⟨rfl, hresend⟩
  · show execOwnFrameRetry s = _
    rw [execOwnFrameRetry, hpending, hretry, clockWait_due hdue]
    rfl
  · show execOwnFrameResend s = _
    rw [execOwnFrameResend, hresend, clockWait_due hdue, State.after_due]

/-- R123, R124, R126. -/
theorem zoneTimersComeRound : Claims.ZoneTimersComeRound := by
  intro s
  refine ⟨fun _ _ _ => exec_contributionExpiry, fun _ => exec_spillClear, fun c r hc hdue => ?_⟩
  intro own
  rw [exec_ownFrame_due hc hdue]
  exact ⟨fun htaken => congrArg _ (State.offerOwn_taken htaken), fun hrefused => congrArg _ (State.offerOwn_refused hrefused)⟩

/-! ## POST_ZONES (R125) -/

/-- R174, R175: POST ZONES taken in RUN with a body of 8 bytes or more. -/
theorem exec_postZones {s : State} (h : PortReady .run s) (c3 c2 c1 c0 n3 n2 n1 n0 : Byte) (extra : List Byte) :
    exec (.postZones (c3 :: c2 :: c1 :: c0 :: n3 :: n2 :: n1 :: n0 :: extra)) s =
      .next (s.postZones (c3 ++ c2 ++ c1 ++ c0) (n3 ++ n2 ++ n1 ++ n0)) := by
  show execPostZones _ s = _
  rw [execPostZones, State.request_carried h.enabled h.free (by simp [h.mode]) (by simp) (by simp [h.mode, inRun])]
  simp only [List.take_succ_cons, List.take_zero, parseCondition, ofNat_val32]

/-- R125 to R127. -/
theorem postZonesDeclares : Claims.PostZonesDeclares := by
  intro s c3 c2 c1 c0 n3 n2 n1 n0 extra hready closed notice own t c
  have hzones : t.zones = { s.zones with ownClosed := closed, ownNotice := notice }.aggregate := State.withZones_zones _ s
  have hclosed : t.zones.ownClosed = closed := congrArg (·.ownClosed) hzones
  have hnotice : t.zones.ownNotice = notice := congrArg (·.ownNotice) hzones
  have hclock : t.zones.clock = s.zones.clock := congrArg (·.clock) hzones
  have hexec : exec c s = .next (t.offerOwn.answer .ok 0x0A []) := exec_postZones hready c3 c2 c1 c0 n3 n2 n1 n0 extra
  have hown : own = .condition t.zones.ownClosed t.zones.ownNotice := by rw [hclosed, hnotice]
  rw [hexec, hown, ← hclosed, ← hnotice, ← hclock]
  refine ⟨fun htaken => ?_, fun hrefused => ?_⟩
  · rw [State.offerOwn_taken htaken]
    rfl
  · rw [State.offerOwn_refused hrefused]
    rfl

/-- Settles O48. -/
theorem zoneTimersAndPosts : Obligations.ZoneTimersAndPosts := ⟨zoneTimersComeRound, postZonesDeclares⟩

end Sys2Proof.Machine
end

section
/-!
PROOFS. What the operations of the Composer, the Panel Port and the Local Port make of their parts (O60): each keeps what chapters 8,
9 and 11 promise of them.
-/

namespace Sys2Proof.Machine

/-! ## The Composer (R139, R146, R147) -/

/-- `ComposerOk`, said of the Composer. -/
structure Composer.Sound (c : Composer) : Prop where
  pass : c.pass.isSome = true ↔ c.st = .composing ∨ c.st = .finalPass
  cache : c.st = .valid → c.cache.isSome = true
  discard : c.discard ≤ 3
  late : c.late = true → c.st = .finalPass

theorem composerOk_iff (s : State) : ComposerOk s ↔ QuietOutsideRun s ∧ s.composer.Sound :=
  ⟨fun ⟨q, h1, h2, h3, h4⟩ => ⟨q, h1, h2, h3, h4⟩, fun ⟨q, h1, h2, h3, h4⟩ => ⟨q, h1, h2, h3, h4⟩⟩

namespace Composer.Sound

/-- R145, R146: an invalidating event, in each state. -/
theorem invalidate (p : Pass) (c : Composer) (h : c.Sound) : (c.invalidate p).Sound := by
  obtain ⟨hpass, hcache, hdiscard, hlate⟩ := h
  rcases c.invalidate_cases p with ⟨hst, e⟩ | ⟨hst, hd, e⟩ | ⟨hst, -, e⟩ | ⟨hst, e⟩ | ⟨-, e⟩ <;> rw [e]
  · exact ⟨by simp, by simp, hdiscard, fun hl => by simp [hst] at hlate; simp [hlate] at hl⟩
  · exact ⟨by simp [hst], by simp [hst], Nat.le_succ_of_le hd, hlate⟩
  · exact ⟨by simp, by simp, le_rfl, fun _ => rfl⟩
  · exact ⟨hpass, hcache, hdiscard, fun _ => hst⟩
  · exact ⟨hpass, hcache, hdiscard, hlate⟩

theorem invalidateIf (b : Bool) (p : Pass) {c : Composer} (h : c.Sound) : (c.invalidateIf b p).Sound := by
  unfold Composer.invalidateIf
  split
  exacts [invalidate p c h, h]

/-- R144: the reached valid-until time marked. -/
theorem markReached (now : Stamp) (c : Composer) (h : c.Sound) : (c.markReached now).Sound :=
  ⟨h.pass, fun hst => by simpa [Composer.markReached] using h.cache hst, h.discard, h.late⟩

/-- R145: the running pass reads on. -/
theorem mapPass (f : Pass → Pass) {c : Composer} (h : c.Sound) : { c with pass := c.pass.map f }.Sound :=
  ⟨by simpa using h.pass, h.cache, h.discard, h.late⟩

/-- R147: a pass kept. -/
theorem keep (st : Settings) (p fresh : Pass) (late : Bool) : (Composer.keep st p fresh late).Sound := by
  cases late <;> exact ⟨by simp [Composer.keep], by simp [Composer.keep], Nat.zero_le _, by simp [Composer.keep]⟩

/-- R148: the Composer in FIXED, entered from its reset values. -/
theorem fixed (plate : Plate) :
    { Composer.reset with st := .fixed, cache := some (fixedCache plate), offered := some plate }.Sound :=
  ⟨by simp [Composer.reset], fun _ => rfl, Nat.zero_le _, nofun⟩

/-- R149: the first pass. -/
theorem firstPass (p : Pass) : { Composer.reset with st := .composing, pass := some p }.Sound :=
  ⟨by simp, nofun, Nat.zero_le _, nofun⟩

end Composer.Sound

/-! ## The Panel Port (R150 to R158) -/

/-- `PanelOk`, said of the Panel Port. -/
structure PanelPort.Sound (p : PanelPort) : Prop where
  before : p.isSending = true ∨ p.isAwaiting = true → p.attemptSeq = (p.lastAck + 1) % 65536
  after : p.isRefreshing = true → p.attemptSeq = p.lastAck
  ackRange : p.lastAck < 65536
  absent : p.st = .absent → p.delivery = none ∧ p.lastAck = 65535
  phase : p.st ≠ .fault → p.phase = none

theorem panelOk_iff (s : State) : PanelOk s ↔ QuietOutsideRun s ∧ s.panel.Sound :=
  ⟨fun ⟨q, h1, h2, h3, h4, h5⟩ => ⟨q, h1, h2, h3, h4, h5⟩, fun ⟨q, h1, h2, h3, h4, h5⟩ => ⟨q, h1, h2, h3, h4, h5⟩⟩

theorem PanelPort.isSending_iff (p : PanelPort) :
    p.isSending = true ↔ p.st = .sending ∨ (p.st = .fault ∧ p.phase = some .sending) := by simp [PanelPort.isSending]

theorem PanelPort.isAwaiting_iff (p : PanelPort) :
    p.isAwaiting = true ↔ p.st = .awaitAck ∨ (p.st = .fault ∧ p.phase = some .awaitAck) := by simp [PanelPort.isAwaiting]

theorem PanelPort.isRefreshing_iff (p : PanelPort) :
    p.isRefreshing = true ↔ p.st = .refreshing ∨ (p.st = .fault ∧ p.phase = some .refreshing) := by
  simp [PanelPort.isRefreshing]

/-- A panel that is neither sending nor awaiting an acknowledge nor refreshing has its acknowledged sequence alone to keep. -/
theorem PanelPort.Sound.of_still {p : PanelPort} (hst : p.st = .idle ∨ p.st = .fault) (hphase : p.phase = none)
    (hack : p.lastAck < 65536) : p.Sound := by
  have hne : ∀ x : PanelState, x ≠ .idle → x ≠ .fault → p.st ≠ x := fun x hi hf e => by
    rcases hst with h | h <;> rw [h] at e
    exacts [hi e.symm, hf e.symm]
  refine ⟨fun h => ?_, fun h => ?_, hack, fun h => absurd h (hne _ (by decide) (by decide)), fun _ => hphase⟩
  · rw [p.isSending_iff, p.isAwaiting_iff, hphase] at h
    simp [hne .sending, hne .awaitAck] at h
  · rw [p.isRefreshing_iff, hphase] at h
    simp [hne .refreshing] at h

namespace PanelPort.Sound

variable {p : PanelPort} (h : p.Sound)
include h

theorem elapse (n : Nat) : (p.elapse n).Sound := ⟨h.before, h.after, h.ackRange, h.absent, h.phase⟩

/-- R152: a delivery takes the next attempt sequence. -/
theorem examine (limit : Nat) (hold : Bool) : (p.examine limit hold).Sound := by
  rcases p.examine_cases limit hold with ⟨plate, -, hst, -, -, e⟩ | e <;> rw [e]
  · have hphase := h.phase (by rw [hst]; decide)
    refine ⟨fun _ => rfl, fun hr => ?_, h.ackRange, by simp [PanelPort.startDelivery], fun _ => hphase⟩
    simp [PanelPort.isRefreshing_iff, PanelPort.startDelivery] at hr
  · exact h

/-- R151. -/
theorem offer (limit : Nat) (hold : Bool) (plate : Plate) : (p.offer limit hold plate).Sound :=
  examine (p := { p with slot := some plate }) ⟨h.before, h.after, h.ackRange, h.absent, h.phase⟩ limit hold

/-- R156: so does a fault attempt. -/
theorem examineFault (hold : Bool) : (p.examineFault hold).Sound := by
  rcases p.examineFault_cases hold with ⟨plate, -, hst, -, -, e⟩ | e <;> rw [e]
  · refine ⟨fun _ => rfl, fun hr => ?_, h.ackRange, fun ha => ?_, fun hf => absurd hst hf⟩
    · simp [PanelPort.isRefreshing_iff, PanelPort.startAttempt, hst] at hr
    · simp [PanelPort.startAttempt, hst] at ha
  · exact h

/-- R153: the attempt sequence stays until the acknowledge. -/
theorem sent (hs : p.isSending = true) : p.sent.Sound := by
  have hseq := h.before (.inl hs)
  rw [p.isSending_iff] at hs
  unfold PanelPort.sent
  split
  · next hf =>
    exact ⟨fun _ => hseq, by simp [PanelPort.isRefreshing_iff, hf], h.ackRange, by simp [hf], fun hn => absurd hf hn⟩
  · next hf =>
    exact ⟨fun _ => hseq, by simp [PanelPort.isRefreshing_iff], h.ackRange, by simp, fun _ => h.phase hf⟩

/-- R153, R156: the acknowledged sequence is the attempt's. -/
theorem acked (ha : p.isAwaiting = true) : p.acked.Sound := by
  have hrange : p.attemptSeq < 65536 := by
    rw [h.before (.inr ha)]
    exact Nat.mod_lt _ (by decide)
  unfold PanelPort.acked
  split
  · next hf =>
    exact ⟨by simp [PanelPort.isSending_iff, PanelPort.isAwaiting_iff, hf], fun _ => rfl, hrange, by simp [hf],
      fun hn => absurd hf hn⟩
  · next hf =>
    exact ⟨by simp [PanelPort.isSending_iff, PanelPort.isAwaiting_iff], fun _ => rfl, hrange, by simp, fun _ => h.phase hf⟩

/-- R154: PANEL_BUSY at a level. -/
theorem busyLevel (busy : Bool) (limit : Nat) (hold : Bool) : (p.busyLevel busy limit hold).Sound := by
  unfold PanelPort.busyLevel
  split
  · exact examine (p := p.refreshed) (.of_still (.inl rfl) rfl h.ackRange) limit hold
  · exact h

/-- R155. -/
theorem enterFault : p.enterFault.Sound := .of_still (.inr rfl) rfl h.ackRange

/-- R156. -/
theorem failAttempt (hf : p.st = .fault) : p.failAttempt.Sound := .of_still (.inr hf) rfl h.ackRange

/-- R153, R155, R156: no acknowledge has come in time. -/
theorem ackTimedOut (ha : p.isAwaiting = true) : p.ackTimedOut.Sound := by
  unfold PanelPort.ackTimedOut
  split
  · next hf => exact h.failAttempt hf
  · next hf =>
    split
    · exact h.enterFault
    · exact ⟨fun _ => h.before (.inr ha), by simp [PanelPort.isRefreshing_iff, PanelPort.sendAgain], h.ackRange,
        by simp [PanelPort.sendAgain], fun _ => h.phase hf⟩

/-- R154 to R156: the redraw has not ended in time. -/
theorem busyTimedOut : p.busyTimedOut.Sound := by
  unfold PanelPort.busyTimedOut
  split
  exacts [h.failAttempt ‹_›, h.enterFault]

end PanelPort.Sound

/-! ## The Local Port (R169, R177) -/

/-- What `PortOk` speaks of: the posting buffer, whether a program cycle runs, and the request in hand. -/
def State.hand (s : State) : Option (List Byte) × Bool × Option InHand := (s.sessions.posting, s.cycle.isSome, s.port.inHand)

theorem PortOk.congr {s t : State} (h : t.hand = s.hand) (hs : PortOk s) : PortOk t := by
  simp only [State.hand, Prod.mk.injEq] at h
  obtain ⟨hposting, hcycle, hhand⟩ := h
  exact ⟨by rw [hposting, hhand]; exact hs.posting, by rw [hcycle, hhand]; exact hs.cycle⟩

/-- With a request in hand that neither posts nor programs, or with none, buffer and cycle are empty. -/
theorem PortOk.empty {s : State} (h : PortOk s) (hpost : s.port.inHand ≠ some .postSession)
    (hprog : s.port.inHand ≠ some .programWord) : s.sessions.posting = none ∧ s.cycle = none := by
  obtain ⟨hp, hc⟩ := h
  constructor
  · rw [← Option.not_isSome_iff_eq_none, hp]; exact hpost
  · rw [← Option.not_isSome_iff_eq_none, hc]; exact hprog

/-- Buffer and cycle empty and nothing of theirs in hand. -/
theorem PortOk.of_empty {s : State} (hpost : s.sessions.posting = none) (hcycle : s.cycle = none)
    (hhand : s.port.inHand ≠ some .postSession ∧ s.port.inHand ≠ some .programWord) : PortOk s :=
  ⟨by simp [hpost, hhand.1], by simp [hcycle, hhand.2]⟩

end Sys2Proof.Machine
end

section
/-!
PROOFS. Every step keeps the Composer, the Panel Port and the Local Port consistent (O60): by what a command does to them, or because
it leaves them alone; RESET_N_RELEASE finds them at their reset values.
-/

namespace Sys2Proof.Machine

/-! ## From one state to the next -/

/-- From one state to the next these parts stay sound. -/
structure KeepsPlate (s t : State) : Prop where
  composer : s.composer.Sound → t.composer.Sound
  panel : s.panel.Sound → t.panel.Sound
  port : PortOk s → PortOk t

namespace KeepsPlate

theorem refl (s : State) : KeepsPlate s s := ⟨id, id, id⟩

theorem trans {s t u : State} (h : KeepsPlate s t) (k : KeepsPlate t u) : KeepsPlate s u :=
  ⟨fun x => k.composer (h.composer x), fun x => k.panel (h.panel x), fun x => k.port (h.port x)⟩

/-- What changes the Composer and the Panel Port soundly and leaves buffer, cycle and request in hand alone. -/
theorem parts {s t : State} (hc : s.composer.Sound → t.composer.Sound) (hp : s.panel.Sound → t.panel.Sound)
    (hh : t.hand = s.hand) : KeepsPlate s t := ⟨hc, hp, PortOk.congr hh⟩

/-- What leaves these parts as they are. -/
theorem of_eq {s t : State} (hc : t.composer = s.composer) (hp : t.panel = s.panel) (hh : t.hand = s.hand) : KeepsPlate s t :=
  parts (fun h => hc ▸ h) (fun h => hp ▸ h) hh

/-- Work of the lines and of Reception leaves them as they are. -/
theorem offLine {s t : State} (h : t.offLine = s.offLine) : KeepsPlate s t :=
  have field {α : Type} (f : State → α) : f t.offLine = f s.offLine := congrArg f h
  .of_eq (field State.composer) (field State.panel) (field State.hand)

/-- A change of the Composer alone. -/
theorem ofComposer {s t : State} (hc : s.composer.Sound → t.composer.Sound) (hp : t.panel = s.panel) (hh : t.hand = s.hand) :
    KeepsPlate s t := parts hc (fun h => hp ▸ h) hh

/-- A change of the Panel Port alone. -/
theorem ofPanel {s t : State} (hp : s.panel.Sound → t.panel.Sound) (hc : t.composer = s.composer) (hh : t.hand = s.hand) :
    KeepsPlate s t := parts (fun h => hc ▸ h) hp hh

/-- A change of the Local Port alone. -/
theorem ofPort {s t : State} (hh : PortOk s → PortOk t) (hc : t.composer = s.composer) (hp : t.panel = s.panel) :
    KeepsPlate s t := ⟨fun h => hc ▸ h, fun h => hp ▸ h, hh⟩

end KeepsPlate

/-- A notice raised leaves the request in hand. -/
@[simp] theorem LocalPort.raiseIf_inHand (c : Bool) (n : Notice) (p : LocalPort) : (p.raiseIf c n).inHand = p.inHand := by
  cases c <;> rfl

@[simp] theorem State.elapse_hand (n : Nat) (s : State) : (s.elapse n).hand = s.hand := by
  simp [State.hand, State.elapse_sessions, State.elapse_cycle]

/-- Time that passes moves the Panel Port's timers alone. -/
theorem State.elapse_panel (n : Nat) (s : State) : (s.elapse n).panel = if n = 0 then s.panel else s.panel.elapse n := by
  unfold State.elapse
  split <;> rfl

@[simp] theorem State.elapse_isSending (n : Nat) (s : State) : (s.elapse n).panel.isSending = s.panel.isSending := by
  rw [State.elapse_panel]
  split <;> rfl

@[simp] theorem State.elapse_isAwaiting (n : Nat) (s : State) : (s.elapse n).panel.isAwaiting = s.panel.isAwaiting := by
  rw [State.elapse_panel]
  split <;> rfl

namespace KeepsPlate

theorem elapse (n : Nat) (s : State) : KeepsPlate s (s.elapse n) :=
  .ofPanel (fun h => by rw [State.elapse_panel]; split; exacts [h, h.elapse n]) (State.elapse_composer n s) (State.elapse_hand n s)

/-- An event, said of the state that it takes place in. -/
theorem afterWhen {f : State → State} {w : Option Nat} {s : State}
    (h : ∀ n, w = some n → KeepsPlate (s.elapse n) (f (s.elapse n))) : KeepsPlate s (s.after w f) := by
  rcases s.after_cases w f with ⟨-, e⟩ | ⟨n, hw, e⟩ <;> rw [e]
  exacts [.refl s, (elapse n s).trans (h n hw)]

theorem after {f : State → State} (h : ∀ u, KeepsPlate u (f u)) (w : Option Nat) (s : State) : KeepsPlate s (s.after w f) :=
  .afterWhen fun _ _ => h _

/-- An event that leaves these parts as they are. -/
theorem afterSide {f : State → State} {w : Option Nat} {s : State} (hc : ∀ u, (f u).composer = u.composer)
    (hp : ∀ u, (f u).panel = u.panel) (hh : ∀ u, (f u).hand = u.hand) : KeepsPlate s (s.after w f) :=
  .after (fun u => .of_eq (hc u) (hp u) (hh u)) w s

/-- An event of the lines. -/
theorem afterOffLine {f : State → State} {w : Option Nat} {s : State} (h : ∀ u, (f u).offLine = u.offLine) :
    KeepsPlate s (s.after w f) := .after (fun u => .offLine (h u)) w s

/-- A request: what it does, it does with none in hand. -/
theorem requestFree {code : Nat} {ok : Bool} {allowed : Mode → Bool} {act : State → State} {s : State}
    (h : s.port.inHand = none → KeepsPlate s (act s)) : KeepsPlate s (s.request code ok allowed act) := by
  rcases State.request_cases code ok allowed act s with e | ⟨st, e⟩ | ⟨-, hfree, -, -, -, e⟩ <;> rw [e]
  exacts [.refl s, .of_eq rfl rfl rfl, h hfree]

theorem request {code : Nat} {ok : Bool} {allowed : Mode → Bool} {act : State → State} {s : State}
    (h : KeepsPlate s (act s)) : KeepsPlate s (s.request code ok allowed act) := .requestFree fun _ => h

/-- An event that comes about under a condition. -/
theorem when {c : Prop} [Decidable c] {s t : State} (h : c → KeepsPlate s t) : KeepsPlate s (if c then t else s) := by
  split
  exacts [h ‹_›, .refl s]

/-! ## Reports to the Composer -/

theorem withZones (z : ConditionList) (s : State) : KeepsPlate s (s.withZones z) := by
  refine .ofComposer (fun h => ?_) (by rw [State.withZones_frame]) (by rw [State.withZones_frame]; rfl)
  unfold State.withZones
  dsimp only
  split
  exacts [h, h.invalidateIf _ _]

theorem withRoutes (o : RouteOut) (s : State) : KeepsPlate s (s.withRoutes o) :=
  .ofComposer (Composer.onRoutes_keeps _ _ (Composer.Sound.invalidate _) _) rfl rfl

theorem doJob (job : Job) (upTo : Option Nat) (s : State) : KeepsPlate s (s.doJob job upTo) := .when fun _ => .withRoutes _ s

theorem giveMinuteEvent (s : State) : KeepsPlate s s.giveMinuteEvent := by
  refine .ofComposer (fun h => h.invalidateIf _ _) rfl ?_
  obtain ⟨r, w, e⟩ := s.sessions.minuteEvent_frame s.time.known s.time.day s.time.minute
  simp only [State.hand, State.giveMinuteEvent, e]

theorem giveCrossing (s : State) : KeepsPlate s s.giveCrossing := .when fun _ => .giveMinuteEvent s

/-- R38 to R40, R144: an event of the Time Unit. -/
theorem timeEvent (o : TimeOut) (s : State) : KeepsPlate s (s.timeEvent o) := by
  have told (minute : Bool) (t : TimeUnit) (u : State) : KeepsPlate u { u with
      time := t, sessions := if minute then u.sessions.minuteEvent t.known t.day t.minute else u.sessions
      composer := u.composer.onTime (decide (t.stamp ≠ u.time.stamp)) minute o.told { u with time := t }.passNow
      port := u.port.raiseIf o.step .timeStep } := by
    refine .ofComposer (Composer.onTime_keeps _ _ (Composer.Sound.invalidate _)
      (fun c now => Composer.Sound.markReached now c) _ _ _) rfl ?_
    obtain ⟨r, w, e⟩ := u.sessions.minuteEvent_frame t.known t.day t.minute
    cases minute <;> cases o.step <;> simp only [State.hand, e, if_true] <;> rfl
  refine KeepsPlate.trans ?_ (told _ _ _)
  split
  exacts [.giveCrossing s, .refl s]

/-- R63 to R70, R82: a merge. -/
theorem merged (o : MergeOut) (s : State) (h : o.table.posting = s.sessions.posting) : KeepsPlate s (s.merged o) := by
  refine .ofComposer (Composer.onSessions_keeps _ _ (Composer.Sound.invalidate _) _ _) rfl ?_
  obtain ⟨r, w, e⟩ := o.table.settle_frame
  simp only [State.hand, State.merged, e, h]
  rfl


/-- R72: a removal. -/
theorem housekeep (e : SessionEntry) (p : HousekeepingPass) (s : State) : KeepsPlate s { s with
    sessions := s.sessions.housekeep e p
    composer := s.composer.onSessions s.settings s.passNow [removedReport e.record] } := by
  refine .ofComposer (Composer.onSessions_keeps _ _ (Composer.Sound.invalidate _) _ _) rfl ?_
  obtain ⟨r, w, h⟩ := SessionTable.settle_frame { s.sessions.remove e.slot with running := some { p with next := e.slot + 1 } }
  simp only [State.hand, SessionTable.housekeep, h]
  rfl

/-! ## Offers of the Route Engine and the Condition List -/

theorem offerOwn (s : State) : KeepsPlate s s.offerOwn :=
  (KeepsPlate.offLine (State.offer_offLine s.zones.ownBody false false s)).trans (.of_eq rfl rfl rfl)

theorem buildPrompt (s : State) : KeepsPlate s s.buildPrompt :=
  (KeepsPlate.offLine (State.offer_offLine (s.advertBody (s.routes.promptSet.take 20)) false true s)).trans (.of_eq rfl rfl rfl)

theorem buildRound (s : State) : KeepsPlate s s.buildRound := by
  unfold State.buildRound
  dsimp only
  split
  · exact .of_eq rfl rfl rfl
  · exact (KeepsPlate.offLine (State.offer_offLine (s.advertBody s.routes.roundRooms) false false s)).trans (.of_eq rfl rfl rfl)

/-! ## Requests in hand (R169, R173, R177) -/

/-- R77: POST SESSION completes, and the posting buffer is emptied. -/
theorem postDone (st : ReqStatus) {s : State} (h : s.sessions.posting.isSome = true) : KeepsPlate s (s.postDone st) := by
  refine .ofPort (fun hs => .of_empty rfl ?_ (by simp [State.postDone, LocalPort.complete])) rfl rfl
  have hhand := hs.posting.1 h
  rw [← Option.not_isSome_iff_eq_none]
  simp only [State.postDone, hs.cycle, hhand]
  simp

/-- R78. -/
theorem announce (r : SessionRecord) (s : State) : KeepsPlate s (s.announce r) := by
  have offered : KeepsPlate s (s.offer (.session r) false false) := .offLine (State.offer_offLine _ _ _ s)
  unfold State.announce
  dsimp only
  split
  · exact offered
  · split
    exacts [offered.trans (.of_eq rfl rfl rfl), offered]

/-- R77, R78. -/
theorem mergePost (r : SessionRecord) {s : State} (h : s.sessions.posting.isSome = true) : KeepsPlate s (s.mergePost r) := by
  obtain ⟨entries, changed, reqs, -, hmerge⟩ := s.sessions.merge_frame s.settings s.time r true
  have hposting : (s.sessions.merge s.settings s.time r true).table.posting = s.sessions.posting := by rw [hmerge]
  have hmerged := KeepsPlate.merged _ s hposting
  have hdone (st : ReqStatus) := hmerged.trans (.postDone st (by
    obtain ⟨r, w, e⟩ := (s.sessions.merge s.settings s.time r true).table.settle_frame
    simp only [State.merged, e, hposting, h]))
  unfold State.mergePost
  dsimp only
  split
  exacts [(hdone _).trans (.announce r _), hdone _]

/-- R80, R117: a read in hand completes. -/
theorem readDone {s t : State} (hread : s.port.inHand ≠ some .postSession ∧ s.port.inHand ≠ some .programWord)
    (hh : t.hand = (s.sessions.posting, s.cycle.isSome, none)) (hc : t.composer = s.composer) (hp : t.panel = s.panel) :
    KeepsPlate s t := by
  refine .ofPort (fun hs => ?_) hc hp
  obtain ⟨hposting, hcycle⟩ := hs.empty hread.1 hread.2
  simp only [State.hand, Prod.mk.injEq] at hh
  obtain ⟨h1, h2, h3⟩ := hh
  exact .of_empty (h1.trans hposting) (by simpa [hcycle] using h2) (by simp [h3])

theorem localPortSessionRead {s t : State} (h : execLocalPortSessionRead s = .next t) : KeepsPlate s t := by
  obtain rfl := Host.Outcome.next.inj h
  refine .when fun _ => ?_
  split
  · next i hi =>
    have hread : s.port.inHand ≠ some .postSession ∧ s.port.inHand ≠ some .programWord := by simp [hi]
    have hdone (v : Option SessionView) : (s.port.readDone v).inHand = none := by cases v <;> rfl
    split <;> exact .readDone hread (by simp only [State.hand, hdone]) rfl rfl
  · exact .refl s

theorem localPortRouteRead {s t : State} (h : execLocalPortRouteRead s = .next t) : KeepsPlate s t := by
  obtain rfl := Host.Outcome.next.inj h
  split
  · next room hroom =>
    have hread : s.port.inHand ≠ some .postSession ∧ s.port.inHand ≠ some .programWord := by
      constructor <;> intro h <;> simp [LocalPort.wantsRoute, h] at hroom
    split
    · exact .refl s
    · refine .readDone hread ?_ rfl rfl
      split <;> rfl
  · exact .refl s

/-- R177: a POST SESSION goes into hand with its record in the posting buffer. -/
theorem takePost (bytes : List Byte) {s : State} (h : s.port.inHand = none) :
    KeepsPlate s ({ s with sessions := { s.sessions with posting := some bytes } }.takeInHand .postSession 0x05) := by
  refine .ofPort (fun hs => ⟨by simp [LocalPort.takeInHand], ?_⟩) rfl rfl
  obtain ⟨-, hcycle⟩ := hs.empty (by simp [h]) (by simp [h])
  simp [LocalPort.takeInHand, hcycle]

/-- R177: a read goes into hand. -/
theorem takeRead {i : InHand} (hi : i ≠ .postSession ∧ i ≠ .programWord) (code : Nat) {s : State} (h : s.port.inHand = none) :
    KeepsPlate s (s.takeInHand i code) := by
  refine .ofPort (fun hs => ?_) rfl rfl
  obtain ⟨hposting, hcycle⟩ := hs.empty (by simp [h]) (by simp [h])
  exact .of_empty hposting hcycle (by simpa [LocalPort.takeInHand] using hi)

theorem takeReadSession (body : List Byte) {s : State} (h : s.port.inHand = none) : KeepsPlate s (s.takeReadSession body) := by
  unfold State.takeReadSession
  split
  · split
    exacts [.of_eq rfl rfl rfl, .takeRead (by simp) _ h]
  · exact .refl s

theorem takeReadRoute (room : Nat) {s : State} (h : s.port.inHand = none) : KeepsPlate s (s.takeReadRoute room) := by
  unfold State.takeReadRoute
  split
  exacts [.takeRead (by simp) _ h, .of_eq rfl rfl rfl]

/-- R169: a program cycle starts with its request. -/
theorem judgeProgram (addr : Nat) (pattern : Word) {s : State} (h : s.port.inHand = none) :
    KeepsPlate s (s.judgeProgram addr pattern) := by
  have hstart : KeepsPlate s (s.startCycle addr pattern) := by
    refine .ofPort (fun hs => ⟨?_, by simp [State.startCycle, LocalPort.takeInHand]⟩) rfl rfl
    obtain ⟨hposting, -⟩ := hs.empty (by simp [h]) (by simp [h])
    simp [State.startCycle, LocalPort.takeInHand, hposting]
  unfold State.judgeProgram
  repeat' split
  exacts [.of_eq rfl rfl rfl, .of_eq rfl rfl rfl, .of_eq rfl rfl rfl, .of_eq rfl rfl rfl, hstart]

/-- R169, R170: a program cycle ends with its request. -/
theorem endCycle (s : State) : KeepsPlate s s.endCycle := by
  unfold State.endCycle
  split
  · next c hc =>
    have hposting (hs : PortOk s) : s.sessions.posting = none := by
      rw [← Option.not_isSome_iff_eq_none, hs.posting, hs.cycle.1 (by simp [hc])]
      simp
    split <;> exact .ofPort (fun hs => .of_empty (hposting hs) rfl
      (by simp [State.cycleLost, State.cycleDone, LocalPort.complete])) rfl rfl
  · exact .refl s

theorem supplyLevel (level : Bool) (s : State) : KeepsPlate s (s.supplyLevel level) :=
  .of_eq rfl rfl (by simp [State.hand])

/-! ## The Composer's commands and those of the panel -/

/-- R145, R147: a pass ends. -/
theorem endPass (p : Pass) (s : State) : KeepsPlate s (s.endPass p) := by
  unfold State.endPass
  split
  · exact .ofComposer (Composer.Sound.invalidate _ _) rfl rfl
  · refine .parts (fun _ => .keep ..) (fun h => ?_) rfl
    show (s.offerPlate _).Sound
    unfold State.offerPlate
    split
    exacts [h, h.offer _ _ _]

/-- R153, R156, R179: the acknowledge. -/
theorem panelAck {busy : Bool} {s t : State} (h : execPanelAck busy s = .next t) : KeepsPlate s t := by
  obtain rfl := Host.Outcome.next.inj h
  split
  · next ha => exact .ofPanel (fun h => (h.acked ha).busyLevel _ _ _) rfl rfl
  · exact .ofPanel (fun h => h.busyLevel _ _ _) rfl rfl

end KeepsPlate

theorem onlyIf_eq_some {c : Bool} {w : Option Nat} {n : Nat} : onlyIf c w = some n ↔ c = true ∧ w = some n := by
  cases c <;> simp [onlyIf]

/-- A plate is clocked out while it is being sent (R185). -/
theorem PanelPort.isSending_of_clockWait {p : PanelPort} {n : Nat} (h : p.clockWait = some n) : p.isSending = true := by
  unfold PanelPort.clockWait at h
  split at h
  · exact (onlyIf_eq_some.1 h).1
  · cases h

/-! ## Every command -/

/-- Every command but RESET_N_RELEASE answers a next state, with these parts sound if they were. -/
theorem exec_keepsPlate (c : Instr) (s : State) (hrelease : ∀ x d, c ≠ .resetNRelease x d) :
    ∃ t, exec c s = .next t ∧ KeepsPlate s t := by
  have setLine (l : LineId) (x : Line) (u : State) : KeepsPlate u (u.setLine l x) := .offLine (State.setLine_offLine ..)
  have still (u : State) : KeepsPlate u u := .refl u
  cases c with
  | resetNRelease x d => exact absurd rfl (hrelease x d)
  | resetNAssert =>
    obtain ⟨-, -, -, -, -, -, -, -, hcomposer, hport, hpanel, -⟩ := resetMeetsEveryInvariant
    exact ⟨_, rfl, fun _ => ((composerOk_iff _).1 hcomposer).2, fun _ => ((panelOk_iff _).1 hpanel).2,
      fun _ => hport.congr (s := State.reset) rfl⟩
  | lineIdleGap l draw => exact ⟨_, rfl, .when fun _ => (setLine l _ s).trans (.afterOffLine (State.afterGap_offLine l draw))⟩
  | lineBusy l => exact ⟨_, rfl, .when fun _ => .offLine (State.goBusy_offLine l s)⟩
  | backoffExpiry l => exact ⟨_, rfl, .afterOffLine (State.countDone_offLine l)⟩
  | echoFailure l =>
    refine ⟨_, rfl, .when fun _ => ?_⟩
    split
    exacts [.offLine (State.enterDown_offLine l s), setLine l _ s]
  | collision l => exact ⟨_, rfl, .when fun _ => .offLine (State.collide_offLine l s)⟩
  | frameSent l => exact ⟨_, rfl, .afterOffLine (State.sentOn_offLine l)⟩
  | carrierStuck l =>
    refine ⟨_, rfl, ?_⟩
    split
    exacts [(setLine l _ s).trans (.afterOffLine (State.enterStuck_offLine l)), still s]
  | stuckLineRecovery l => exact ⟨_, rfl, .when fun _ => (setLine l _ s).trans (.after (fun u => setLine l _ u) _ _)⟩
  | startDelimiter l =>
    refine ⟨_, rfl, .when fun _ => .trans ?_ (setLine l _ _)⟩
    split
    exacts [still s, .offLine (State.goBusy_offLine l s)]
  | frameEnd l bytes =>
    refine ⟨_, rfl, ?_⟩
    split
    · dsimp only
      split
      exacts [(setLine l _ s).trans (.offLine (State.sortFrame_offLine _ _ _)), setLine l _ s]
    · exact still s
  | beaconHandover =>
    refine ⟨_, rfl, ?_⟩
    split
    · next f rest _ =>
      have handed : KeepsPlate s { s with inbound := rest } := .of_eq rfl rfl rfl
      split
      exacts [handed.trans (.timeEvent _ _), still s]
    · exact still s
  | roundEnd => exact ⟨_, rfl, .after (fun u => .timeEvent _ u) _ s⟩
  | beaconTimerExpiry =>
    refine ⟨_, rfl, .after (fun u => ?_) _ s⟩
    exact .trans (t := { u with time := { u.time with beaconTimer := some 0 } }) (.of_eq rfl rfl rfl)
      (.offLine (State.beaconIndication_offLine _))
  | minuteEvent => exact ⟨_, rfl, .after .giveMinuteEvent _ s⟩
  | setTime body =>
    refine ⟨_, rfl, .request ?_⟩
    split
    · split
      · exact (KeepsPlate.timeEvent _ s).trans (.trans (.offLine (State.beaconIndication_offLine _)) (.of_eq rfl rfl rfl))
      · exact .of_eq rfl rfl rfl
    · exact .of_eq rfl rfl rfl
  | inboundMerge =>
    refine ⟨_, rfl, ?_⟩
    split
    · next f rest _ =>
      have handed : KeepsPlate s { s with inbound := rest } := .of_eq rfl rfl rfl
      split
      · next r _ =>
        obtain ⟨entries, changed, reqs, -, hmerge⟩ := s.sessions.merge_frame s.settings s.time r false
        exact handed.trans (.merged _ _ (by rw [hmerge]))
      · exact still s
    · exact still s
  | postingBufferMerge =>
    refine ⟨_, rfl, ?_⟩
    split
    · next bs hbs =>
      refine .when fun _ => ?_
      split
      exacts [.mergePost _ (by simp [hbs]), .postDone _ (by simp [hbs])]
    · exact still s
  | housekeepingRemoval =>
    refine ⟨_, rfl, ?_⟩
    split
    · refine .when fun _ => ?_
      split
      · exact .housekeep _ _ s
      · obtain ⟨r, w, e⟩ := s.sessions.settle_frame
        exact .of_eq rfl rfl (by simp only [State.hand, e])
    · exact still s
  | refreshDue slot =>
    refine ⟨_, rfl, .afterSide (fun _ => rfl) (fun _ => rfl) (fun u => ?_)⟩
    simp only [State.hand, SessionTable.requestRefresh]
    split <;> rfl
  | refreshScanGrant =>
    refine ⟨_, rfl, ?_⟩
    split
    · next d slot rest _ =>
      have asked : KeepsPlate s { s with sessions := { s.sessions with refreshReqs := rest } } := .of_eq rfl rfl rfl
      refine .when fun _ => ?_
      dsimp only
      split
      · split
        · exact asked.trans (.trans (.offLine (State.offer_offLine _ true false _)) (.of_eq rfl rfl rfl))
        · exact asked
      · exact asked
    · exact still s
  | composerSessionRead => exact ⟨_, rfl, .when fun _ => .ofComposer (fun h => h.mapPass _) rfl rfl⟩
  | composerRouteRead =>
    refine ⟨_, rfl, ?_⟩
    split
    exacts [.ofComposer (fun h => h.mapPass _) rfl rfl, still s]
  | localPortSessionRead => exact ⟨_, rfl, .localPortSessionRead rfl⟩
  | localPortRouteRead => exact ⟨_, rfl, .localPortRouteRead rfl⟩
  | advertHandover =>
    refine ⟨_, rfl, ?_⟩
    split
    · split
      exacts [.when fun _ => .of_eq rfl rfl rfl, still s]
    · exact still s
  | advertJob | conditionRecomputation | pinSetUpdate | sweep => exact ⟨_, rfl, .doJob _ _ s⟩
  | frameBuilding =>
    refine ⟨_, rfl, .when fun _ => ?_⟩
    split
    exacts [.buildPrompt s, .buildRound s]
  | roundRetry =>
    refine ⟨_, rfl, .after (fun u => ?_) _ s⟩
    have due : KeepsPlate u { u with routes := { u.routes with round := .due } } := .of_eq rfl rfl rfl
    dsimp only
    split
    exacts [due.trans (.buildRound _), due]
  | conditionHandover =>
    refine ⟨_, rfl, ?_⟩
    split
    · split
      · refine .trans ?_ (.withZones _ _)
        exact .of_eq rfl rfl (by simp only [State.hand, LocalPort.raiseIf_inHand])
      · exact still s
    · exact still s
  | contributionExpiry | spillClear => exact ⟨_, rfl, .after (fun u => .withZones _ u) _ s⟩
  | postZones body =>
    refine ⟨_, rfl, .request ?_⟩
    split
    exacts [((KeepsPlate.withZones _ s).trans (.offerOwn _)).trans (.of_eq rfl rfl rfl), still s]
  | ownFrameRetry | ownFrameResend => exact ⟨_, rfl, .after .offerOwn _ s⟩
  | validUntilReached =>
    refine ⟨_, rfl, .after (fun u => ?_) _ s⟩
    exact .ofComposer (fun h => .invalidate _ _ (.markReached _ _ h)) rfl rfl
  | passEnd =>
    refine ⟨_, rfl, ?_⟩
    split
    exacts [.when fun _ => .endPass _ s, still s]
  | panelIntervalExpiry =>
    refine ⟨_, rfl, .after (fun u => ?_) _ s⟩
    exact .ofPanel (fun h => h.examine _ _) rfl rfl
  | plateClockedOut =>
    refine ⟨_, rfl, .afterWhen fun n hw => .ofPanel (fun h => h.sent ?_) rfl rfl⟩
    rw [State.elapse_isSending]
    exact PanelPort.isSending_of_clockWait hw
  | panelAck busy => exact ⟨_, rfl, .panelAck rfl⟩
  | ackTimeout =>
    refine ⟨_, rfl, .afterWhen fun n hw => .ofPanel (fun h => h.ackTimedOut ?_) rfl ?_⟩
    · rw [State.elapse_isAwaiting]
      exact (onlyIf_eq_some.1 hw).1
    · simp only [State.hand, LocalPort.raiseIf_inHand]
  | panelBusyFall => exact ⟨_, rfl, .ofPanel (fun h => h.busyLevel _ _ _) rfl rfl⟩
  | busyTimeout =>
    refine ⟨_, rfl, .after (fun u => ?_) _ s⟩
    refine .ofPanel (fun h => h.busyTimedOut) rfl ?_
    simp only [State.hand, LocalPort.raiseIf_inHand]
  | faultTimerExpiry =>
    refine ⟨_, rfl, .after (fun u => ?_) _ s⟩
    refine .ofPanel (fun h => ?_) rfl rfl
    exact PanelPort.Sound.examineFault (p := { u.panel with faultTimer := none, faultDue := true })
      ⟨h.before, h.after, h.ackRange, h.absent, h.phase⟩ _
  | panelHoldFall => exact ⟨_, rfl, .ofPanel (fun h => (h.examine _ _).examineFault _) rfl rfl⟩
  | duplicateEntryExpiry | tombstoneExpiry | sweepTimerExpiry | roundDue | promptDue =>
    exact ⟨_, rfl, .afterSide (fun _ => rfl) (fun _ => rfl) (fun _ => rfl)⟩
  | panelHoldRise => exact ⟨_, rfl, .of_eq rfl rfl rfl⟩
  | readStatus | lineRestart => exact ⟨_, rfl, .request (.of_eq rfl rfl rfl)⟩
  | ackNotices | setAttentionEnables | clearAttentionEnables =>
    refine ⟨_, rfl, .request ?_⟩
    split
    exacts [.of_eq rfl rfl rfl, still s]
  | readPlate =>
    refine ⟨_, rfl, .request ?_⟩
    unfold State.readPlate
    split <;> exact .of_eq rfl rfl rfl
  | postSession => exact ⟨_, rfl, .requestFree (.takePost _)⟩
  | readSessionByIndex body | readSessionNextChanged body => exact ⟨_, rfl, .requestFree (.takeReadSession body)⟩
  | readRoute body =>
    refine ⟨_, rfl, .requestFree fun hfree => ?_⟩
    split
    exacts [.takeReadRoute _ hfree, still s]
  | programWord body supply =>
    refine ⟨_, rfl, (KeepsPlate.supplyLevel supply s).trans (.requestFree fun hfree => ?_)⟩
    split
    exacts [.judgeProgram _ _ hfree, still _]
  | programCycleEnd => exact ⟨_, rfl, .after .endCycle _ s⟩
  | pgmSupplyFall => exact ⟨_, rfl, .supplyLevel false s⟩
  | verifyWord body supply =>
    refine ⟨_, rfl, (KeepsPlate.supplyLevel supply s).trans (.request ?_)⟩
    split
    · unfold State.judgeVerify
      repeat' split
      all_goals exact .of_eq rfl rfl rfl
    · exact still _
  | requestCodeNamesNoRequest code body => exact ⟨_, rfl, .when fun _ => .request (still s)⟩

/-! ## RESET_N_RELEASE and steps -/

/-- RESET_N_RELEASE leaves posting buffer, cycle and request in hand alone. -/
theorem State.release_hand (x : Straps) (d : Bool) (s : State) : (s.sample x d).start.hand = s.hand := by
  unfold State.start
  repeat' split
  all_goals rfl

/-- R150, R159: the panel as START finds it, PANEL_DETECT sampled. -/
theorem PanelPort.Sound.sampled (d : Bool) : { PanelPort.reset with st := if d then .idle else .absent }.Sound := by
  cases d <;> exact ⟨by decide, by decide, by decide, by decide, fun _ => rfl⟩

/-- R148 to R150: of Composer and Panel Port at their reset values RESET_N_RELEASE makes sound ones. -/
theorem State.release_sound {s : State} (hc : s.composer = Composer.reset) (hp : s.panel = PanelPort.reset) (x : Straps) (d : Bool) :
    (s.sample x d).start.composer.Sound ∧ (s.sample x d).start.panel.Sound := by
  have hcomposer : (s.sample x d).composer = Composer.reset := hc
  have hpanel : (s.sample x d).panel.Sound := by
    simp only [State.sample, hp]
    exact .sampled d
  have unmoved (p : Pass) (rs : List RouteReport) : Composer.reset.onRoutes p rs = Composer.reset :=
    Composer.onRoutes_keeps (· = Composer.reset) p (fun c hc => by rw [hc]; rfl) rs rfl
  unfold State.start
  split
  · exact ⟨by simpa [State.enterProgram, State.offerFixed, hcomposer] using .fixed _, hpanel.offer _ _ _⟩
  split
  · exact ⟨by simpa [State.enterUnassigned, State.offerFixed, hcomposer] using .fixed _, hpanel.offer _ _ _⟩
  · refine ⟨?_, hpanel⟩
    simp only [State.enterRun, State.firstPass, State.withRoutes, hcomposer, unmoved]
    exact .firstPass _

/-- A step keeps these parts sound, or is RESET_N_RELEASE in START. -/
theorem step_keepsPlate {s t : State} (h : step s = .next t) :
    KeepsPlate s t ∨ ∃ x d p, s.mode = .start ∧ t = ({ s with pending := p }.sample x d).start := by
  rcases step_origin h with ⟨c, p, h⟩ | ⟨job, rfl⟩ | rfl
  · have popped : KeepsPlate s { s with pending := p } := .of_eq rfl rfl rfl
    by_cases hrelease : ∃ x d, c = .resetNRelease x d
    · obtain ⟨x, d, rfl⟩ := hrelease
      obtain rfl := Host.Outcome.next.inj h
      split
      exacts [.inr ⟨x, d, p, ‹_›, rfl⟩, .inl popped]
    · obtain ⟨u, hu, hkeeps⟩ := exec_keepsPlate c { s with pending := p } fun x d e => hrelease ⟨x, d, e⟩
      obtain rfl := Host.Outcome.next.inj (hu.symm.trans h)
      exact .inl (popped.trans hkeeps)
  · exact .inl (.doJob job _ s)
  · exact .inl (.elapse 1 s)

/-- R139, R146, R147: the Composer over every step. -/
theorem composerInvariantIsKept : Claims.ComposerInvariantIsKept := by
  intro s t hs h
  rw [composerOk_iff] at hs ⊢
  obtain ⟨q, hs⟩ := hs
  refine ⟨step_keepsQuiet q h, ?_⟩
  rcases step_keepsPlate h with hkeeps | ⟨x, d, p, hst, rfl⟩
  · exact hkeeps.composer hs
  · obtain ⟨hc, hp⟩ := q.start hst
    exact (State.release_sound (s := { s with pending := p }) hc hp x d).1

/-- R150, R152, R156, R158: the Panel Port over every step. -/
theorem attemptSequenceIsTheNext : Claims.AttemptSequenceIsTheNext := by
  intro s t hs h
  rw [panelOk_iff] at hs ⊢
  obtain ⟨q, hs⟩ := hs
  refine ⟨step_keepsQuiet q h, ?_⟩
  rcases step_keepsPlate h with hkeeps | ⟨x, d, p, hst, rfl⟩
  · exact hkeeps.panel hs
  · obtain ⟨hc, hp⟩ := q.start hst
    exact (State.release_sound (s := { s with pending := p }) hc hp x d).2

/-- R169, R177: the Local Port over every step. -/
theorem handAndBuffersAgree : Claims.HandAndBuffersAgree := by
  intro s t hs h
  rcases step_keepsPlate h with hkeeps | ⟨x, d, p, -, rfl⟩
  · exact hkeeps.port hs
  · exact .congr (s := s) (State.release_hand x d { s with pending := p }) hs

/-- Settles O60: each operation of a command on the Composer, the Panel Port and the Local Port keeps them consistent, every other
part of a step leaves them alone, and RESET_N_RELEASE finds a station in START at its reset values. -/
theorem platePartsStayConsistent : Obligations.PlatePartsStayConsistent :=
  ⟨composerInvariantIsKept, attemptSequenceIsTheNext, handAndBuffersAgree⟩

end Sys2Proof.Machine
end

section
/-! PROOFS. What invalidates the cached plate and the running pass, and what an invalidating event does in each Composer state (O50). -/

namespace Sys2Proof.Machine

/-! ## Sections and scopes (R129, R132) -/

theorem Settings.nameplate_iff (st : Settings) : st.nameplate = true ↔ st.homeRoom ≠ 0 := decide_eq_true_iff

theorem Settings.directorySection_iff (st : Settings) : st.directorySection = true ↔ st.directory ≠ [] := by
  simp [Settings.directorySection]

theorem Settings.hasSection_iff (st : Settings) : st.hasSection = true ↔ st.homeRoom ≠ 0 ∨ st.directory ≠ [] := by
  rw [Settings.hasSection, Bool.or_eq_true, st.nameplate_iff, st.directorySection_iff]

/-- R132: a room set holds a room of the directory. -/
theorem Settings.directoryIn_iff (st : Settings) (rooms : List Nat) :
    st.directoryIn rooms = true ↔ ∃ m ∈ rooms, m ∈ st.directory := by
  simp [Settings.directoryIn]

/-! ## Reports (R141 to R143, R146) -/

/-- R141: a side that concerns the home room, a directory room, or, PLENARY, the directory section. -/
theorem Settings.sideConcerns_iff (st : Settings) (side : Option (List Nat × Bool)) :
    st.sideConcerns side = true ↔ ∃ rooms plenary, side = some (rooms, plenary) ∧
      ((st.homeRoom ≠ 0 ∧ st.homeRoom ∈ rooms) ∨ (∃ m ∈ rooms, m ∈ st.directory) ∨ (plenary = true ∧ st.directory ≠ [])) := by
  cases side with
  | none => simp [Settings.sideConcerns]
  | some side =>
    obtain ⟨rooms, plenary⟩ := side
    simp only [Settings.sideConcerns, Bool.or_eq_true, Bool.and_eq_true, st.homeIn_iff, st.directoryIn_iff, st.directorySection_iff,
      or_assoc]
    constructor
    · exact fun h => ⟨rooms, plenary, rfl, h⟩
    · rintro ⟨r, p, ⟨⟩, h⟩
      exact h

/-- R141. -/
theorem Composer.hitBySession_iff (st : Settings) (c : Composer) (r : SessionReport) : c.hitBySession st r = true ↔
    (∃ k, c.cache = some k ∧ r.key ∈ k.keys) ∨ st.sideConcerns r.before = true ∨ st.sideConcerns r.after = true := by
  simp [Composer.hitBySession, Option.any_eq_true, or_assoc]

/-- R142, R146. -/
theorem Composer.hitByRoute_iff (c : Composer) (room : Nat) : c.hitByRoute room = true ↔
    (∃ k, c.cache = some k ∧ room ∈ k.rooms) ∨ ∃ q, c.pass = some q ∧ ∃ v ∈ q.routes, v.room = room := by
  simp [Composer.hitByRoute, Option.any_eq_true]

/-- R143, R146. -/
theorem Composer.hitByZones_iff (st : Settings) (closed notice : ZoneVec) (c : Composer) : c.hitByZones st closed notice = true ↔
    (∃ k b, c.cache = some k ∧ k.zoneBits = some b ∧ b ≠ zoneBitsOf st closed notice) ∨
      ∃ q, c.pass = some q ∧ zoneBitsOf st q.closed q.notice ≠ zoneBitsOf st closed notice := by
  simp [Composer.hitByZones, Option.any_eq_true]

/-- R144: the days compared as in R46. -/
theorem Stamp.minuteBefore_iff (x y : Stamp) : x.minuteBefore y = true ↔
    dayDiff x.day y.day < 0 ∨ (dayDiff x.day y.day = 0 ∧ x.ms / 60000 < y.ms / 60000) := by
  simp only [Stamp.minuteBefore, Bool.or_eq_true, Bool.and_eq_true, decide_eq_true_eq]

/-- R144. -/
theorem Composer.hitByMinute_iff (now : Stamp) (c : Composer) : c.hitByMinute now = true ↔
    ∃ k v, c.cache = some k ∧ k.validUntil = some v ∧ now.minuteBefore k.passMoment = true := by
  simp [Composer.hitByMinute, Option.any_eq_true, Option.isSome_iff_exists]

/-- R141 to R144, R146: what each report meets. -/
theorem reportsInvalidateWhatTheyMeet : Claims.ReportsInvalidateWhatTheyMeet := by
  intro st p c
  refine ⟨fun r => ?_, ⟨rfl, fun _ _ => rfl⟩, c.hitByRoute_iff, ⟨rfl, fun _ _ _ _ => rfl, fun _ _ => rfl⟩,
    fun closed notice => c.hitByZones_iff st closed notice, fun now => ?_⟩
  · rw [c.hitBySession_iff, st.sideConcerns_iff, st.sideConcerns_iff]
  · simp only [c.hitByMinute_iff, Stamp.minuteBefore_iff]

/-! ## Events of the Time Unit (R143, R144, R146) -/

/-- R144: no valid-until time is reached for the first time. -/
theorem Composer.validUntilHit_eq_false {now : Stamp} {c : Composer}
    (h : ∀ k, c.cache = some k → k.validUntilReached = true ∨ k.validUntil.any now.atOrPast = false) : c.validUntilHit now = false := by
  unfold Composer.validUntilHit
  cases hc : c.cache with
  | none => rfl
  | some k => rcases h k hc with hk | hk <;> simp only [Option.any_some, hk, Bool.not_true, Bool.false_and, Bool.and_false]

/-- R144: the cached plate's is. -/
theorem Composer.validUntilHit_eq_true {now : Stamp} {c : Composer} {k : Cache} (hc : c.cache = some k)
    (hk : k.validUntilReached = false) (hv : k.validUntil.any now.atOrPast = true) : c.validUntilHit now = true := by
  simp only [Composer.validUntilHit, hc, Option.any_some, hk, hv, Bool.not_false, Bool.and_self]

/-- R143, R144: a changed reading, the minute event, the report, each in its turn. -/
theorem timeEventsInvalidateInTurn : Claims.TimeEventsInvalidateInTurn := by
  intro p c minute told reached marked rest
  have hrest (moved : Bool) : c.onTime moved minute told p = rest (c.reachIf moved p) := by
    simp only [Composer.onTime, Composer.invalidateIf, Bool.and_eq_true, rest]
  refine ⟨hrest false, fun h => ?_, fun k hc hk hv => ?_⟩ <;> rw [hrest true]
  · have hreach : c.reachIf true p = marked c := by
      simp only [Composer.reachIf, Composer.validUntilHit_eq_false h, Composer.invalidateIf]
      rfl
    rw [hreach]
  · have hreach : c.reachIf true p = marked (c.invalidate p) := by
      simp only [Composer.reachIf, Composer.validUntilHit_eq_true hc hk hv, Composer.invalidateIf]
      rfl
    rw [hreach]

/-! ## What an invalidating event does (R144 to R146) -/

/-- R144: the cached plate's valid-until time, reached and not yet marked, is due. -/
theorem State.validUntilWait_eq {s : State} {k : Cache} {v : Stamp} (hr : s.running = true) (hc : s.composer.cache = some k)
    (hv : k.validUntil = some v) (hk : k.validUntilReached = false) (hpast : s.time.stamp.atOrPast v = true) :
    s.validUntilWait = some 0 := by
  simp [State.validUntilWait, hc, hv, hk, hr, onlyIf, TimeUnit.momentWait, hpast]

/-- R144: the marking of a valid-until time that is reached. -/
theorem Composer.markReached_eq {c : Composer} {k : Cache} {v now : Stamp} (hc : c.cache = some k) (hv : k.validUntil = some v)
    (hpast : now.atOrPast v = true) : c.markReached now = { c with cache := some { k with validUntilReached := true } } := by
  simp [Composer.markReached, hc, hv, hpast]

/-- R144 to R146. -/
theorem invalidationFollowsTheComposerState : Claims.InvalidationFollowsTheComposerState := by
  refine ⟨fun c p => ⟨fun h => ?_, fun h hd => ?_, fun h hd => ?_, fun h => ?_, fun h => ?_⟩, fun s k v hr hc hv hk hpast => ?_⟩
  · simp only [Composer.invalidate, h]
  · simp only [Composer.invalidate, h]
    exact if_pos (by omega)
  · simp only [Composer.invalidate, h]
    exact if_neg (by omega)
  · simp only [Composer.invalidate, h]
  · rcases h with h | h <;> simp only [Composer.invalidate, h]
  · simp only [exec, execValidUntilReached, State.validUntilWait_eq hr hc hv hk hpast, State.after_due,
      Composer.markReached_eq hc hv hpast]

/-- Settles O50. -/
theorem invalidationFollowsTheState : Obligations.InvalidationFollowsTheState :=
  ⟨reportsInvalidateWhatTheyMeet, timeEventsInvalidateInTurn, invalidationFollowsTheComposerState⟩

end Sys2Proof.Machine
end

section
/-!
PROOFS. How a pass ends, what its plate shows, and what the Composer keeps of it (O51).
-/

namespace Sys2Proof.Machine

/-! ## PASS_END (R138, R139, R145, R147) -/

/-- PASS_END of a pass that has made its reads. -/
theorem exec_passEnd {s : State} {p : Pass} (hp : s.composer.pass = some p) (hc : p.complete s.settings = true) :
    exec .passEnd s = .next (s.endPass p) := by
  simp only [exec, execPassEnd, hp, hc, if_true]

/-- R145: a pass overtaken in COMPOSING counts as invalidated. -/
theorem State.endPass_abandoned {p : Pass} {s : State} (hst : s.composer.st = .composing)
    (hpast : p.overtaken s.settings s.time.stamp = true) :
    s.endPass p = { s with composer := s.composer.invalidate s.passNow } := if_pos (by simp [hst, hpast])

/-- R145, R147: any other pass is kept. -/
theorem State.endPass_kept {p : Pass} {s : State}
    (h : s.composer.st ≠ .composing ∨ p.overtaken s.settings s.time.stamp = false) :
    s.endPass p = s.keepPass p (s.composer.late || p.overtaken s.settings s.time.stamp) := if_neg (by
  rcases h with h | h <;> simp [h])

/-- R138, R139, R145, R147. -/
theorem keptPassBecomesTheCache : Claims.KeptPassBecomesTheCache := by
  intro s p hp hc st past pins plate kept
  rw [exec_passEnd hp hc]
  have hkeep (late : Bool) : s.keepPass p late =
      kept (if late then .composing else .valid) (if late then some s.passNow else none) := rfl
  refine ⟨fun hst hpast => ?_, fun hlate hpast => ?_, fun hst h => ?_⟩
  · rw [State.endPass_abandoned hst hpast]
  · have hpast : p.overtaken s.settings s.time.stamp = false := hpast
    rw [State.endPass_kept (.inr hpast), hkeep, hlate, hpast]
    rfl
  · have hlate : (s.composer.late || p.overtaken s.settings s.time.stamp) = true := by
      rw [Bool.or_eq_true]
      exact h
    rw [State.endPass_kept (.inl (by rw [hst]; decide)), hkeep, hlate]
    rfl

/-! ## The header (R129, R137) -/

theorem Pass.plate_noSection {st : Settings} (h : st.hasSection = false) (p : Pass) : p.plate st = .run (stationIdPlate st) := by
  simp [Pass.plate, h]

theorem Pass.plate_unknown {st : Settings} (h : st.hasSection = true) {p : Pass} (hk : p.known = false) :
    p.plate st = .run (plateHeader st p) := by
  simp [Pass.plate, h, hk]

theorem Pass.plate_known {st : Settings} (h : st.hasSection = true) {p : Pass} (hk : p.known = true) :
    p.plate st = .run (platedSelection st p (p.selection st)) := by
  simp [Pass.plate, h, hk]

/-- What the header holds at a station with a section, whatever lines follow. -/
structure HeadOf (st : Settings) (p : Pass) (x : RunPlate) : Prop where
  stationId : x.stationId = st.stationId
  nameplate : x.nameplate = st.nameplate
  directory : x.directory = st.directorySection
  awaitingTime : x.awaitingTime = !p.known
  areaClosed : x.areaClosed = p.closed.getLsbD st.zone
  attention : x.attention = p.notice.getLsbD st.zone
  roomName : x.roomName = st.roomName
  homeRoom : x.homeRoom = st.homeRoom

theorem plateHeader_head (st : Settings) (p : Pass) : HeadOf st p (plateHeader st p) := ⟨rfl, rfl, rfl, rfl, rfl, rfl, rfl, rfl⟩

theorem platedSelection_head (st : Settings) (p : Pass) (x : Selection) : HeadOf st p (platedSelection st p x) :=
  ⟨rfl, rfl, rfl, rfl, rfl, rfl, rfl, rfl⟩

/-- R129, R137: a plate of a station with a section. -/
theorem Pass.plate_head {st : Settings} (h : st.hasSection = true) (p : Pass) : ∃ x, p.plate st = .run x ∧ HeadOf st p x ∧
    (p.known = false → x.combined = [] ∧ x.current = none ∧ x.next = none ∧ x.lines = []) := by
  cases hk : p.known with
  | false => exact ⟨_, Pass.plate_unknown h hk, plateHeader_head st p, fun _ => ⟨rfl, rfl, rfl, rfl⟩⟩
  | true => exact ⟨_, Pass.plate_known h hk, platedSelection_head st p _, nofun⟩

/-- R129, R137: the header, with a section and without. -/
theorem plateHeadFollowsTheStation : Claims.PlateHeadFollowsTheStation := by
  intro st p
  cases h : st.hasSection with
  | false =>
    have hno : ¬(st.homeRoom ≠ 0 ∨ st.directory ≠ []) := by simp [← st.hasSection_iff, h]
    exact ⟨_, Pass.plate_noSection h p, rfl, fun _ _ => rfl, fun hsection => absurd hsection hno⟩
  | true =>
    obtain ⟨x, hx, head, hlines⟩ := Pass.plate_head h p
    refine ⟨x, hx, head.stationId, fun hhome hdir => ?_, fun _ => ⟨?_, ?_, head.awaitingTime, head.areaClosed, head.attention,
      head.roomName, head.homeRoom, hlines⟩⟩
    · exact absurd (st.hasSection_iff.1 h) (by simp [hhome, hdir])
    · rw [head.nameplate, st.nameplate_iff]
    · rw [head.directory, st.directorySection_iff]

/-! ## The lines (R130, R131, R133 to R136) -/

/-- R131, R145: the part at a place is that of the room the pass has read for it. -/
theorem Pass.part_of_room {p : Pass} {rooms : List Nat} (h : p.routes.map (·.room) = rooms) {i m : Nat} (hm : rooms[i]? = some m) :
    ∃ v ∈ p.routes, v.room = m ∧ p.parts[i]? = some v.part := by
  rw [← h, List.getElem?_map, Option.map_eq_some_iff] at hm
  obtain ⟨v, hv, rfl⟩ := hm
  exact ⟨v, List.mem_of_getElem? hv, rfl, by rw [Pass.parts, List.getElem?_map, hv]; rfl⟩

/-- A line other than a directory line has as many parts as moved-to rooms. -/
theorem partCount_eq (r : Option SessionRecord) : partCount r = (r.bind (·.movedRoom)).toList.length := by
  unfold partCount
  cases r.bind (·.movedRoom) <;> rfl

/-- R131, R135: a current or next line has its moved-to room's part, and none without one. -/
theorem Pass.partAt_spec {p : Pass} {before after : List Nat} {r : SessionRecord}
    (h : p.routes.map (·.room) = before ++ r.movedRoom.toList ++ after) :
    (r.movedRoom = none → partAt p.parts before.length r = none) ∧
      ∀ m, r.movedRoom = some m → ∃ v ∈ p.routes, v.room = m ∧ partAt p.parts before.length r = some v.part := by
  refine ⟨fun hr => by simp [partAt, hr], fun m hm => ?_⟩
  obtain ⟨v, hv, hroom, hpart⟩ := Pass.part_of_room h (i := before.length) (m := m) (by simp [hm])
  exact ⟨v, hv, hroom, by simp [partAt, hm, hpart]⟩

/-- R136: a directory line has the part of its target room. -/
theorem Pass.directoryPart_spec {p : Pass} {before : List Nat} {rs : List SessionRecord}
    (h : p.routes.map (·.room) = before ++ rs.map (·.targetRoom)) {i : Nat} {r : SessionRecord} (hr : rs[i]? = some r) :
    ∃ v ∈ p.routes, v.room = r.targetRoom ∧ (p.parts.drop before.length)[i]? = some v.part := by
  obtain ⟨v, hv, hroom, hpart⟩ := Pass.part_of_room h (i := before.length + i) (m := r.targetRoom) (by
    rw [List.getElem?_append_right (Nat.le_add_right _ _), Nat.add_sub_cancel_left, List.getElem?_map, hr]
    rfl)
  exact ⟨v, hv, hroom, by rw [List.getElem?_drop, hpart]⟩

theorem directoryLines_getElem? {rs : List SessionRecord} {i : Nat} {r : SessionRecord} (hr : rs[i]? = some r)
    (parts : List RoutePart) : (directoryLines rs parts)[i]? = some (directoryLine r parts[i]?) := by
  simp [directoryLines, List.getElem?_zipIdx, hr]

/-- R134: the countdown in whole minutes rounded up, where it lies in 1..60. -/
theorem countdown_eq (now start : Nat) : countdown now start =
    if 1 ≤ (start - now + 59999) / 60000 ∧ (start - now + 59999) / 60000 ≤ 60 then some ((start - now + 59999) / 60000) else none := by
  simp only [countdown, Bool.and_eq_true, decide_eq_true_eq]

/-- R130, R131, R133 to R136: each line and its part. -/
theorem plateLinesShowTheSelection : Claims.PlateLinesShowTheSelection := by
  intro st p hk hsection sel hread marker moved partOf
  have hmarker (r : SessionRecord) : marker r = r.status.marker := by
    simp only [marker]
    cases r.status <;> rfl
  have hrooms : p.routes.map (·.room) = (sel.current.bind (·.movedRoom)).toList ++ (sel.next.bind (·.movedRoom)).toList ++
      sel.directory.map (·.targetRoom) := hread
  refine ⟨_, Pass.plate_known (st.hasSection_iff.2 hsection) hk, ?_, fun hc => ?_, fun r hr => ?_, fun hn => ?_, fun r hr => ?_, ?_,
    fun i r hr => ?_⟩
  · show combinedWith st sel.current = _
    unfold combinedWith
    cases sel.current <;> rfl
  · show sel.current.map _ = none
    rw [hc]; rfl
  · refine ⟨partAt p.parts 0 r, ?_, ?_⟩
    · exact Pass.partAt_spec (before := []) (by rw [hrooms, hr, List.append_assoc]; rfl)
    · show sel.current.map _ = _
      rw [hr, hmarker]; rfl
  · show sel.next.map _ = none
    rw [hn]; rfl
  · refine ⟨partAt p.parts (partCount sel.current) r, ?_, ?_⟩
    · rw [partCount_eq]
      exact Pass.partAt_spec (by rw [hrooms, hr]; rfl)
    · show sel.next.map _ = _
      rw [hr, hmarker, ← countdown_eq]; rfl
  · show (directoryLines sel.directory _).length = _
    simp [directoryLines]
  · obtain ⟨v, hv, hroom, hpart⟩ := Pass.directoryPart_spec hrooms hr
    rw [List.length_append, ← partCount_eq, ← partCount_eq] at hpart
    refine ⟨some v.part, ⟨nofun, fun m hm => ⟨v, hv, ?_, rfl⟩⟩, ?_⟩
    · exact hroom.trans (Option.some.inj hm)
    · show (directoryLines sel.directory _)[i]? = _
      rw [directoryLines_getElem? hr, hpart, hmarker]; rfl

/-! ## Pin set and dependency record (R138, R139) -/

theorem Selection.mem_shown {x : Selection} {r : SessionRecord} :
    r ∈ x.shown ↔ x.current = some r ∨ x.next = some r ∨ r ∈ x.directory := by
  simp [Selection.shown]

theorem SessionRecord.movedRoom_eq_some {r : SessionRecord} {m : Nat} :
    r.movedRoom = some m ↔ r.status = .moved ∧ r.movedTo = some m := by
  simp [SessionRecord.movedRoom]

/-- R138: the moved-to rooms and the rooms of the PLENARY sessions shown. -/
theorem Selection.mem_pins {x : Selection} {m : Nat} : m ∈ x.pins ↔ ∃ r ∈ x.shown,
    (r.status = .moved ∧ r.movedTo = some m) ∨ (r.plenary = true ∧ m ∈ r.rooms) := by
  simp only [Selection.pins, mem_roomSet, List.mem_flatMap, List.mem_append, Option.mem_toList,
    SessionRecord.movedRoom_eq_some]
  refine exists_congr fun r => and_congr_right fun _ => or_congr_right ?_
  split <;> simp [*]

theorem ownBits_eq (st : Settings) (closed notice : ZoneVec) : ownBits st closed notice =
    if st.homeRoom ≠ 0 ∨ st.directory ≠ [] then some (closed.getLsbD st.zone, notice.getLsbD st.zone) else none := by
  simp only [ownBits, st.hasSection_iff]
  rfl

/-- R138, R139. -/
theorem pinsAndDependenciesFollowThePlate : Claims.PinsAndDependenciesFollowThePlate := by
  intro st p sel shown k
  have hshown (r : SessionRecord) : shown r ↔ r ∈ sel.shown := Selection.mem_shown.symm
  refine ⟨roomSet_ascending _, fun m => ?_, rfl, fun key => ?_, fun m => ?_, ownBits_eq .., rfl, rfl⟩
  · simp only [Selection.mem_pins, hshown]
  · simp only [k, Pass.cache, List.mem_map, hshown, eq_comm (a := key)]
    rfl
  · simp only [k, Pass.cache, mem_roomSet, List.mem_map]

/-- Settles O51. -/
theorem passEndKeepsOrAbandons : Obligations.PassEndKeepsOrAbandons :=
  ⟨keptPassBecomesTheCache, plateHeadFollowsTheStation, plateLinesShowTheSelection, pinsAndDependenciesFollowThePlate⟩

end Sys2Proof.Machine
end

section
/-! PROOFS. The lines that a plate selects, and its valid-until time (O52). -/

namespace Sys2Proof.Machine

/-! ## The sessions of today, and their scopes (R132) -/

/-- R132: of the slots read, the entries of today that are not tombstones. -/
theorem Pass.mem_today {p : Pass} {r : SessionRecord} : r ∈ p.today ↔
    (∃ v, some v ∈ p.slots ∧ v.record = r) ∧ r.status ≠ .withdrawn ∧ r.day = p.moment.day := by
  simp [Pass.today]

theorem SessionRecord.nameplateScope_iff (st : Settings) (r : SessionRecord) :
    r.nameplateScope st = true ↔ st.homeRoom ≠ 0 ∧ st.homeRoom ∈ r.rooms := st.homeIn_iff r.rooms

theorem SessionRecord.directoryScope_iff (st : Settings) (r : SessionRecord) :
    r.directoryScope st = true ↔ r.plenary = true ∨ ∃ m ∈ r.rooms, m ∈ st.directory := by
  rw [SessionRecord.directoryScope, Bool.or_eq_true, st.directoryIn_iff]

theorem SessionRecord.currentAt_iff (now : Nat) (r : SessionRecord) :
    r.currentAt now = true ↔ r.startMin * 60000 ≤ now ∧ now < r.endMin * 60000 := by
  rw [SessionRecord.currentAt, Bool.and_eq_true, decide_eq_true_iff, decide_eq_true_iff, SessionRecord.startMs, SessionRecord.endMs]

theorem SessionRecord.upcomingAt_iff (now : Nat) (r : SessionRecord) : r.upcomingAt now = true ↔ now < r.startMin * 60000 :=
  decide_eq_true_iff

/-- R136: current, or upcoming within the look-ahead. -/
theorem SessionRecord.listable_iff (st : Settings) (now : Nat) (r : SessionRecord) : r.listable st now = true ↔
    (r.startMin * 60000 ≤ now ∧ now < r.endMin * 60000) ∨
      (now < r.startMin * 60000 ∧ r.startMin * 60000 ≤ now + st.lookAhead * 60000) := by
  rw [SessionRecord.listable, Bool.or_eq_true, r.currentAt_iff, Bool.and_eq_true, r.upcomingAt_iff, decide_eq_true_iff,
    SessionRecord.startMs]

/-! ## The orders of R133, R134 and R136 -/

/-- R133: the greater key. -/
def KeyAbove (x y : SessionRecord) : Prop := y.publisher < x.publisher ∨ (x.publisher = y.publisher ∧ y.number < x.number)

theorem SessionRecord.keyAbove_iff (x y : SessionRecord) : x.keyAbove y = true ↔ KeyAbove x y := by
  simp only [SessionRecord.keyAbove, KeyAbove, Bool.or_eq_true, Bool.and_eq_true, decide_eq_true_eq]

/-- R133: begun later, or at once with the greater key. -/
theorem betterCurrent_iff (x y : SessionRecord) :
    betterCurrent x y = true ↔ y.startMin < x.startMin ∨ (x.startMin = y.startMin ∧ KeyAbove x y) := by
  simp only [betterCurrent, Bool.or_eq_true, Bool.and_eq_true, decide_eq_true_eq, SessionRecord.keyAbove_iff]

/-- R134: begins earlier, or at once with the greater key. -/
theorem betterNext_iff (x y : SessionRecord) :
    betterNext x y = true ↔ x.startMin < y.startMin ∨ (x.startMin = y.startMin ∧ KeyAbove x y) := by
  simp only [betterNext, Bool.or_eq_true, Bool.and_eq_true, decide_eq_true_eq, SessionRecord.keyAbove_iff]

/-- The lowest room is the least of the set, 0 for an empty one. -/
theorem lowestRoom_eq (rooms : List Nat) : lowestRoom rooms = rooms.min?.getD 0 := by
  cases rooms with
  | nil => rfl
  | cons m rooms => simp only [lowestRoom, List.headD_cons, List.foldl_cons, Nat.min_self, List.min?_cons', Option.getD_some]

/-- R136: start, lowest room, key in ascending order. -/
theorem directoryPrecedes_iff (x y : SessionRecord) : directoryPrecedes x y = true ↔
    x.startMin < y.startMin ∨ (x.startMin = y.startMin ∧ (x.rooms.min?.getD 0 < y.rooms.min?.getD 0 ∨
      (x.rooms.min?.getD 0 = y.rooms.min?.getD 0 ∧ KeyAbove y x))) := by
  simp only [directoryPrecedes, Bool.or_eq_true, Bool.and_eq_true, decide_eq_true_eq, SessionRecord.keyAbove_iff, lowestRoom_eq]

/-- A strict weak order: what `pickBest` and `sortBy` need of a precedence. -/
structure StrictWeak {α : Type} (better : α → α → Bool) : Prop where
  asymm : ∀ a b, better a b = true → better b a = false
  negTrans : ∀ a b c, better a b = false → better b c = false → better a c = false

theorem betterCurrent_strictWeak : StrictWeak betterCurrent where
  asymm a b := by simp only [← Bool.not_eq_true, betterCurrent_iff, KeyAbove]; omega
  negTrans a b c := by simp only [← Bool.not_eq_true, betterCurrent_iff, KeyAbove]; omega

theorem betterNext_strictWeak : StrictWeak betterNext where
  asymm a b := by simp only [← Bool.not_eq_true, betterNext_iff, KeyAbove]; omega
  negTrans a b c := by simp only [← Bool.not_eq_true, betterNext_iff, KeyAbove]; omega

theorem directoryPrecedes_strictWeak : StrictWeak directoryPrecedes where
  asymm a b := by simp only [← Bool.not_eq_true, directoryPrecedes_iff, KeyAbove]; omega
  negTrans a b c := by simp only [← Bool.not_eq_true, directoryPrecedes_iff, KeyAbove]; omega

/-- What is picked is one of the list that no other is better than. -/
theorem StrictWeak.pickBest_some {α : Type} {better : α → α → Bool} (h : StrictWeak better) {l : List α} {x : α}
    (hx : pickBest better l = some x) : x ∈ l ∧ ∀ y ∈ l, better y x = false :=
  ⟨pickBest_mem hx, pickBest_best h.asymm h.negTrans hx⟩

/-- The first of a sorted list stand in order, and none left out precedes one of them. -/
theorem StrictWeak.take_sortBy {α : Type} {precedes : α → α → Bool} (h : StrictWeak precedes) (n : Nat) (l : List α) :
    let d := (sortBy precedes l).take n
    d.length ≤ n ∧ (∀ x ∈ d, x ∈ l) ∧ d.Pairwise (fun a b => precedes b a = false) ∧
      ∀ y ∈ l, y ∉ d → d.length = n ∧ ∀ x ∈ d, precedes y x = false := by
  intro d
  have hsorted : (sortBy precedes l).Pairwise (fun a b => precedes b a = false) :=
    sortBy_pairwise (fun a b => precedes b a = false) (fun a b c hab hbc => h.negTrans c b a hbc hab) (fun a b => h.asymm a b)
      (fun _ _ hab => hab) l
  have hsplit : d ++ (sortBy precedes l).drop n = sortBy precedes l := List.take_append_drop ..
  rw [← hsplit, List.pairwise_append] at hsorted
  obtain ⟨htake, -, hacross⟩ := hsorted
  refine ⟨List.length_take_le .., fun x hx => mem_sortBy.1 (List.mem_of_mem_take hx), htake, fun y hy hyd => ?_⟩
  have hdrop : y ∈ (sortBy precedes l).drop n := by
    rw [← mem_sortBy (precedes := precedes), ← hsplit, List.mem_append] at hy
    exact hy.resolve_left hyd
  refine ⟨?_, fun x hx => hacross x hx y hdrop⟩
  have hlen := List.length_pos_of_mem hdrop
  rw [List.length_drop] at hlen
  exact List.length_take_of_le (by omega)

/-! ## The selection (R132 to R136) -/

theorem Pass.selection_eq {st : Settings} {p : Pass} (h : p.reads st = true) : p.selection st = select st p := if_pos h

/-- R132, R133: the sessions that the current line is chosen of. -/
theorem Pass.mem_current {st : Settings} {p : Pass} {r : SessionRecord} :
    r ∈ (p.today.filter fun r => r.nameplateScope st && r.currentAt p.moment.ms) ↔ r ∈ p.today ∧
      (st.homeRoom ≠ 0 ∧ st.homeRoom ∈ r.rooms) ∧ r.startMin * 60000 ≤ p.moment.ms ∧ p.moment.ms < r.endMin * 60000 := by
  rw [List.mem_filter, Bool.and_eq_true, r.nameplateScope_iff, r.currentAt_iff]

/-- R132, R134: those that the next line is chosen of. -/
theorem Pass.mem_upcoming {st : Settings} {p : Pass} {r : SessionRecord} :
    r ∈ (p.today.filter fun r => r.nameplateScope st && r.upcomingAt p.moment.ms) ↔ r ∈ p.today ∧
      (st.homeRoom ≠ 0 ∧ st.homeRoom ∈ r.rooms) ∧ p.moment.ms < r.startMin * 60000 := by
  rw [List.mem_filter, Bool.and_eq_true, r.nameplateScope_iff, r.upcomingAt_iff]

/-- R132, R136: those that the directory lists the first of. -/
theorem Pass.mem_listed {st : Settings} {p : Pass} {r : SessionRecord} :
    r ∈ (p.today.filter fun r => st.directorySection && r.directoryScope st && r.listable st p.moment.ms) ↔ r ∈ p.today ∧
      st.directory ≠ [] ∧ (r.plenary = true ∨ ∃ m ∈ r.rooms, m ∈ st.directory) ∧
        ((r.startMin * 60000 ≤ p.moment.ms ∧ p.moment.ms < r.endMin * 60000) ∨
          (p.moment.ms < r.startMin * 60000 ∧ r.startMin * 60000 ≤ p.moment.ms + st.lookAhead * 60000)) := by
  rw [List.mem_filter, Bool.and_eq_true, Bool.and_eq_true, st.directorySection_iff, r.directoryScope_iff, r.listable_iff, and_assoc]

/-- R133: what is picked of a list for the current line began last, and of those it has the greatest key. -/
theorem pickBest_current {l : List SessionRecord} {r : SessionRecord} (h : pickBest betterCurrent l = some r) :
    r ∈ l ∧ ∀ q ∈ l, q.startMin ≤ r.startMin ∧ (q.startMin = r.startMin → ¬KeyAbove q r) := by
  obtain ⟨hr, hbest⟩ := betterCurrent_strictWeak.pickBest_some h
  refine ⟨hr, fun q hq => ?_⟩
  have hnot := hbest q hq
  rw [← Bool.not_eq_true, betterCurrent_iff, not_or, not_and] at hnot
  exact ⟨Nat.le_of_not_lt hnot.1, hnot.2⟩

/-- R134: for the next line it begins first, and of those it has the greatest key. -/
theorem pickBest_next {l : List SessionRecord} {r : SessionRecord} (h : pickBest betterNext l = some r) :
    r ∈ l ∧ ∀ q ∈ l, r.startMin ≤ q.startMin ∧ (q.startMin = r.startMin → ¬KeyAbove q r) := by
  obtain ⟨hr, hbest⟩ := betterNext_strictWeak.pickBest_some h
  refine ⟨hr, fun q hq => ?_⟩
  have hnot := hbest q hq
  rw [← Bool.not_eq_true, betterNext_iff, not_or, not_and] at hnot
  exact ⟨Nat.le_of_not_lt hnot.1, hnot.2⟩

/-- Nothing is picked of an empty list alone. -/
theorem not_mem_of_pickBest {α : Type} {better : α → α → Bool} {l : List α} (h : pickBest better l = none) (x : α) : x ∉ l := by
  rw [pickBest_eq_none.1 h]
  exact List.not_mem_nil

/-- R132 to R136: what each section's lines are chosen of, and how. -/
theorem selectionFollowsTheRules : Claims.SelectionFollowsTheRules := by
  intro st p hreads now held home begun ahead listed above low precedes x
  have hx : x = select st p := Pass.selection_eq hreads
  have hheld (r : SessionRecord) : held r ↔ r ∈ p.today := Pass.mem_today.symm
  simp only [hheld, hx]
  refine ⟨fun r hr => ?_, fun hr q hq hhome hbegun => ?_, fun r hr => ?_, fun hr q hq hhome hahead => ?_, ?_⟩
  · obtain ⟨hmem, hbest⟩ := pickBest_current hr
    obtain ⟨htoday, hhome, hbegun⟩ := Pass.mem_current.1 hmem
    exact ⟨htoday, hhome, hbegun, fun q hq hqhome hqbegun => hbest q (Pass.mem_current.2 ⟨hq, hqhome, hqbegun⟩)⟩
  · exact not_mem_of_pickBest hr q (Pass.mem_current.2 ⟨hq, hhome, hbegun⟩)
  · obtain ⟨hmem, hbest⟩ := pickBest_next hr
    obtain ⟨htoday, hhome, hahead⟩ := Pass.mem_upcoming.1 hmem
    exact ⟨htoday, hhome, hahead, fun q hq hqhome hqahead => hbest q (Pass.mem_upcoming.2 ⟨hq, hqhome, hqahead⟩)⟩
  · exact not_mem_of_pickBest hr q (Pass.mem_upcoming.2 ⟨hq, hhome, hahead⟩)
  · have hprecedes (a b : SessionRecord) : directoryPrecedes a b = false ↔ ¬precedes a b := by
      rw [← Bool.not_eq_true, directoryPrecedes_iff]
      rfl
    obtain ⟨hlen, hmem, horder, hrest⟩ := directoryPrecedes_strictWeak.take_sortBy 8
      (p.today.filter fun r => st.directorySection && r.directoryScope st && r.listable st now)
    simp only [hprecedes] at horder hrest
    exact ⟨hlen, fun r hr => Pass.mem_listed.1 (hmem r hr), horder,
      fun q hq hlisted hout => hrest q (Pass.mem_listed.2 ⟨hq, hlisted⟩) hout⟩

/-! ## The valid-until time (R140) -/

/-- R134: a session that lies ahead has a countdown where it begins within 60 minutes. -/
theorem countdown_isSome {now start : Nat} (h : now < start) : (countdown now start).isSome = true ↔ start ≤ now + 3600000 := by
  rw [countdown_eq]
  split
  · simp only [Option.isSome_some, true_iff]; omega
  · simp only [Option.isSome_none, Bool.false_eq_true, false_iff]; omega

/-- R140: the moment that the next line brings: the next minute boundary while it has a countdown, else 60 min before its start. -/
def nextMoment (now : Nat) (r : SessionRecord) : Nat :=
  if (countdown now r.startMs).isSome then (now / 60000 + 1) * 60000 else r.startMs - 3600000

theorem eq_nextMoment_iff {now m : Nat} {r : SessionRecord} (h : now < r.startMin * 60000) : m = nextMoment now r ↔
    (r.startMin * 60000 ≤ now + 3600000 ∧ m = (now / 60000 + 1) * 60000) ∨
      (now + 3600000 < r.startMin * 60000 ∧ m + 3600000 = r.startMin * 60000) := by
  have hc := countdown_isSome h
  unfold nextMoment SessionRecord.startMs
  split
  · next hsome => have := hc.1 hsome; omega
  · next hnone => have := mt hc.2 hnone; omega

theorem Pass.moments_eq (st : Settings) (p : Pass) : p.moments st =
    ((p.selection st).next.map (nextMoment p.moment.ms)).toList
      ++ (p.today.filter fun r => r.nameplateScope st || r.directoryScope st).map (·.startMs)
      ++ (p.today.filter fun r => r.nameplateScope st || r.directoryScope st).map (·.endMs)
      ++ (p.today.filter fun r => r.directoryScope st && r.upcomingAt p.moment.ms &&
          decide (p.moment.ms + st.lookAhead * 60000 < r.startMs)).map (fun r => r.startMs - st.lookAhead * 60000)
      ++ [dayMs] := by
  simp only [Pass.moments]
  split
  · next r h =>
    rw [h]
    simp only [Option.map_some, Option.toList_some, nextMoment]
    split <;> rfl
  · next h =>
    rw [h]
    rfl

/-- R140: the moments at which the plate may read otherwise. -/
theorem Pass.mem_moments {st : Settings} {p : Pass} {m : Nat} : m ∈ p.moments st ↔
      (∃ r, (p.selection st).next = some r ∧ m = nextMoment p.moment.ms r) ∨
      (∃ r ∈ p.today, (r.nameplateScope st = true ∨ r.directoryScope st = true) ∧ (m = r.startMin * 60000 ∨ m = r.endMin * 60000)) ∨
      (∃ r ∈ p.today, r.directoryScope st = true ∧ p.moment.ms + st.lookAhead * 60000 < r.startMin * 60000 ∧
        m + st.lookAhead * 60000 = r.startMin * 60000) ∨
      m = 86400000 := by
  simp only [Pass.moments_eq, List.mem_append, Option.mem_toList, Option.map_eq_some_iff, List.mem_map, List.mem_filter,
    Bool.or_eq_true, Bool.and_eq_true, decide_eq_true_eq, SessionRecord.upcomingAt_iff, List.mem_singleton]
  simp only [SessionRecord.startMs, SessionRecord.endMs, dayMs]
  constructor
  · rintro ((((⟨r, hr, rfl⟩ | ⟨r, ⟨hr, hs⟩, rfl⟩) | ⟨r, ⟨hr, hs⟩, rfl⟩) | ⟨r, ⟨hr, ⟨hs, -⟩, hlt⟩, rfl⟩) | rfl)
    · exact .inl ⟨r, hr, rfl⟩
    · exact .inr (.inl ⟨r, hr, hs, .inl rfl⟩)
    · exact .inr (.inl ⟨r, hr, hs, .inr rfl⟩)
    · exact .inr (.inr (.inl ⟨r, hr, hs, hlt, by omega⟩))
    · exact .inr (.inr (.inr rfl))
  · rintro (⟨r, hr, rfl⟩ | ⟨r, hr, hs, rfl | rfl⟩ | ⟨r, hr, hs, hlt, hm⟩ | rfl)
    · exact .inl (.inl (.inl (.inl ⟨r, hr, rfl⟩)))
    · exact .inl (.inl (.inl (.inr ⟨r, ⟨hr, hs⟩, rfl⟩)))
    · exact .inl (.inl (.inr ⟨r, ⟨hr, hs⟩, rfl⟩))
    · exact .inl (.inr ⟨r, ⟨hr, ⟨hs, by omega⟩, hlt⟩, by omega⟩)
    · exact .inr rfl

/-- R140: of numbers the least is picked. -/
theorem pickBest_least {l : List Nat} {n : Nat} (hn : n ∈ l) :
    ∃ m, pickBest (fun x y => decide (x < y)) l = some m ∧ m ∈ l ∧ ∀ k ∈ l, m ≤ k := by
  have less : StrictWeak fun x y : Nat => decide (x < y) :=
    ⟨fun a b => by simp only [decide_eq_true_eq, decide_eq_false_iff_not]; omega,
      fun a b c => by simp only [decide_eq_false_iff_not]; omega⟩
  cases hpick : pickBest (fun x y : Nat => decide (x < y)) l with
  | none => exact absurd hn (not_mem_of_pickBest hpick n)
  | some m =>
    obtain ⟨hm, hleast⟩ := less.pickBest_some hpick
    exact ⟨m, rfl, hm, fun k hk => Nat.le_of_not_lt (of_decide_eq_false (hleast k hk))⟩

/-- R140: the first moment after the pass's own is there, as midnight is one, and none is chosen that lies beyond midnight. -/
theorem validUntilIsTheNextChange : Claims.ValidUntilIsTheNextChange := by
  intro st p hreads _ hms now held home directory moment
  have hahead (r : SessionRecord) (hr : (p.selection st).next = some r) : now < r.startMin * 60000 := by
    rw [Pass.selection_eq hreads] at hr
    exact (Pass.mem_upcoming.1 (pickBest_mem hr)).2.2
  have hmoment (m : Nat) : m ∈ p.moments st ↔ moment m := by
    rw [Pass.mem_moments]
    simp only [Pass.mem_today, SessionRecord.nameplateScope_iff, SessionRecord.directoryScope_iff]
    exact or_congr_left (exists_congr fun r => and_congr_right fun hr => eq_nextMoment_iff (hahead r hr))
  have hafter (k : Nat) : k ∈ ((p.moments st).filter fun m => decide (now < m)) ↔ moment k ∧ now < k := by
    rw [List.mem_filter, decide_eq_true_iff, hmoment]
  have hmidnight := (hafter 86400000).2 ⟨.inr (.inr (.inr rfl)), hms⟩
  obtain ⟨m, hpick, hm, hfirst⟩ := pickBest_least hmidnight
  obtain ⟨hmoment, hlt⟩ := (hafter m).1 hm
  refine ⟨m, hmoment, hlt, fun k hk hnow => hfirst k ((hafter k).2 ⟨hk, hnow⟩), ?_⟩
  rw [Pass.validUntil, if_pos hreads, hpick, Option.map_some]
  rcases Nat.eq_or_lt_of_le (hfirst _ hmidnight) with rfl | hlt
  · rfl
  · rw [if_neg (by unfold dayMs; omega), if_neg (by omega)]

/-- Settles O52. -/
theorem selectionAndValidUntil : Obligations.SelectionAndValidUntil := ⟨selectionFollowsTheRules, validUntilIsTheNextChange⟩

end Sys2Proof.Machine
end

section
/-!
PROOFS. What the operations of the Panel Port and the levels of its pins come to (chapter 9), and when a timer is due: shared by O53
to O55.
-/

namespace Sys2Proof.Machine

/-! ## Waits and notices -/

/-- A timer that has reached its limit is due now. -/
theorem timerWait_due {limit t : Nat} {timer : Option Nat} (h : timer = some t) (hle : limit ≤ t) :
    timerWait limit timer = some 0 := by
  rw [h, timerWait, Option.map_some, Nat.sub_eq_zero_of_le hle]

theorem onlyIf_pos {c : Bool} (h : c = true) (w : Option Nat) : onlyIf c w = w := if_pos h

/-- R178: PANEL_FAULT is bit 15 of the notices (chapter 12, 12.2). -/
theorem LocalPort.raise_panelFault (p : LocalPort) :
    p.raise .panelFault = { p with notices := p.notices ||| 0x8000#16 } := by
  have hmask : Notice.panelFault.mask = 0x8000#16 := by decide
  rw [LocalPort.raise, hmask, LocalPort.raiseMask]

/-! ## A delivery and a fault attempt begin (R152, R156) -/

namespace PanelPort

variable {p : PanelPort}

theorem passed_iff {limit : Nat} : p.passed limit = true ↔ ∀ t, p.interval = some t → limit ≤ t := by
  simp only [passed, Option.all_eq_true, decide_eq_true_eq]

/-- R152. -/
theorem examine_starts {limit : Nat} {plate : Plate} (hst : p.st = .idle) (hslot : p.slot = some plate)
    (hpassed : p.passed limit = true) : p.examine limit false = p.startDelivery plate := by
  simp only [examine, hslot, hst, hpassed, decide_true, Bool.not_false, Bool.and_true, if_true]

/-- R152, R157: any one condition that is missing keeps a delivery from starting. -/
theorem examine_barred {limit : Nat} {hold : Bool}
    (h : p.slot = none ∨ p.st ≠ .idle ∨ hold = true ∨ ¬p.passed limit = true) : p.examine limit hold = p := by
  rcases p.examine_cases limit hold with ⟨plate, hslot, hst, hhold, hpassed, -⟩ | hsame
  · simp [hslot, hst, hhold, hpassed] at h
  · exact hsame

/-- R156. -/
theorem examineFault_starts {plate : Plate} (hst : p.st = .fault) (hslot : p.slot = some plate) (hdue : p.faultDue = true) :
    p.examineFault false = p.startAttempt plate := by
  simp only [examineFault, hslot, hst, hdue, decide_true, Bool.not_false, Bool.and_true, if_true]

/-- R156, R157: any one condition that is missing keeps a fault attempt from starting. -/
theorem examineFault_barred {hold : Bool} (h : p.slot = none ∨ p.st ≠ .fault ∨ p.faultDue = false ∨ hold = true) :
    p.examineFault hold = p := by
  rcases p.examineFault_cases hold with ⟨plate, hslot, hst, hdue, hhold, -⟩ | hsame
  · simp [hslot, hst, hdue, hhold] at h
  · exact hsame

/-! ## The plate is out, the acknowledge comes, the refresh ends (R153, R154, R156) -/

theorem sent_delivery (h : p.st ≠ .fault) : p.sent = { p with st := .awaitAck, clocked := none, ackTimer := some 0 } := if_neg h

theorem sent_attempt (h : p.st = .fault) :
    p.sent = { p with phase := some .awaitAck, clocked := none, ackTimer := some 0 } := if_pos h

theorem acked_eq (p : PanelPort) : p.acked = { p with
    lastAck := p.attemptSeq, ackTimer := none, busyTimer := some 0
    st := if p.st = .fault then .fault else .refreshing
    phase := if p.st = .fault then some .refreshing else p.phase } := by
  unfold acked
  split
  · next hf => simp only [hf]
  · rfl

theorem acked_isRefreshing (p : PanelPort) : p.acked.isRefreshing = true := by
  rw [isRefreshing_iff, acked_eq]
  by_cases hf : p.st = .fault <;> simp [hf]

/-- R152: as the interval starts with the end of the refresh, no delivery starts at that end. -/
theorem refreshed_examine {st : Settings} (hpos : 1 ≤ st.panelInterval) (hold : Bool) :
    p.refreshed.examine st.intervalTime hold = p.refreshed := by
  refine examine_barred (.inr (.inr (.inr fun hpassed => ?_)))
  have hle : st.panelInterval * 1000000 ≤ 0 := passed_iff.1 hpassed 0 rfl
  omega

/-- R154: PANEL_BUSY low ends a refresh, PANEL_BUSY high lets it run on. -/
theorem busyLevel_refreshing {st : Settings} (hpos : 1 ≤ st.panelInterval) (h : p.isRefreshing = true) (busy hold : Bool) :
    p.busyLevel busy st.intervalTime hold = if busy then p else p.refreshed := by
  cases busy with
  | true => simp only [busyLevel, h, Bool.not_true, Bool.and_false, Bool.false_eq_true, if_false, if_true]
  | false =>
    simp only [busyLevel, h, Bool.not_false, Bool.and_true, Bool.false_eq_true, if_false, if_true, refreshed_examine hpos]

theorem busyLevel_still (h : p.isRefreshing = false) (busy : Bool) (limit : Nat) (hold : Bool) :
    p.busyLevel busy limit hold = p := by
  simp only [busyLevel, h, Bool.false_and, Bool.false_eq_true, if_false]

/-! ## No acknowledge in time (R153, R155, R156) -/

/-- R153: the first time of a delivery. -/
theorem ackTimedOut_first (hst : p.st = .awaitAck) (hretry : p.retry = false) :
    p.ackTimedOut = p.sendAgain ∧ p.ackTimeoutFaults = false := by
  simp [ackTimedOut, ackTimeoutFaults, hst, hretry]

/-- R153, R155: the second time. -/
theorem ackTimedOut_second (hst : p.st = .awaitAck) (hretry : p.retry = true) :
    p.ackTimedOut = p.enterFault ∧ p.ackTimeoutFaults = true := by
  simp [ackTimedOut, ackTimeoutFaults, hst, hretry]

/-- R156: in a fault attempt. -/
theorem ackTimedOut_attempt (hst : p.st = .fault) : p.ackTimedOut = p.failAttempt ∧ p.ackTimeoutFaults = false := by
  simp [ackTimedOut, ackTimeoutFaults, hst]

end PanelPort

end Sys2Proof.Machine
end

section
/-! PROOFS. When a plate goes into delivery (O53). -/

namespace Sys2Proof.Machine

/-- R152: the interval has run out. -/
theorem exec_panelIntervalExpiry {s : State} {t : Nat} (h : s.panel.interval = some t)
    (hle : s.settings.panelInterval * 1000000 ≤ t) : exec .panelIntervalExpiry s =
      .next { s with panel := s.panel.examine s.settings.intervalTime s.pins.panelHold } := by
  show execPanelIntervalExpiry s = _
  rw [execPanelIntervalExpiry, timerWait_due (limit := s.settings.intervalTime) h hle, State.after_due]

theorem exec_panelHoldFall (s : State) : exec .panelHoldFall s = .next { s with
    pins := { s.pins with panelHold := false }
    panel := (s.panel.examine s.settings.intervalTime false).examineFault false } := rfl

/-- R152: outside FAULT the fall of PANEL_HOLD is an examination alone. -/
theorem exec_panelHoldFall_examines {s : State} {q : PanelPort} (h : s.panel.examine s.settings.intervalTime false = q)
    (hq : q.st ≠ .fault) :
    exec .panelHoldFall s = .next { s with pins := { s.pins with panelHold := false }, panel := q } := by
  rw [exec_panelHoldFall, h, PanelPort.examineFault_barred (.inr (.inl hq))]

/-- R152, R156: a fall that finds no plate to deliver and no attempt due starts nothing. -/
theorem exec_panelHoldFall_still {s : State} (hidle : s.panel.st = .idle → s.panel.slot = none)
    (hfault : s.panel.st = .fault → s.panel.slot = none ∨ s.panel.faultDue = false) :
    exec .panelHoldFall s = .next { s with pins := { s.pins with panelHold := false } } := by
  have hexamine : s.panel.examine s.settings.intervalTime false = s.panel := by
    by_cases hst : s.panel.st = .idle
    · exact PanelPort.examine_barred (.inl (hidle hst))
    · exact PanelPort.examine_barred (.inr (.inl hst))
  have hattempt : s.panel.examineFault false = s.panel := by
    by_cases hst : s.panel.st = .fault
    · rcases hfault hst with hslot | hdue
      exacts [PanelPort.examineFault_barred (.inl hslot), PanelPort.examineFault_barred (.inr (.inr (.inl hdue)))]
    · exact PanelPort.examineFault_barred (.inr (.inl hst))
  rw [exec_panelHoldFall, hexamine, hattempt]

/-- Settles O53. -/
theorem deliveryStartsWhenAllowed : Obligations.DeliveryStartsWhenAllowed := by
  refine ⟨fun _ => rfl, fun p limit hold plate hst => PanelPort.examine_barred (.inr (.inl hst)),
    fun _ => exec_panelHoldFall_still, fun s plate hst => ?_⟩
  intro p started passed
  have hpassed : p.passed s.settings.intervalTime = true ↔ passed := PanelPort.passed_iff
  have hfault : p.st ≠ .fault := by rw [hst]; decide
  refine ⟨fun hslot t ht hle => ?_, fun hslot hp => ?_, fun hp => ?_, fun hp hold => ?_, fun hp => ?_, ?_⟩
  · rw [exec_panelIntervalExpiry ht hle]
    cases s.pins.panelHold with
    | true => rw [PanelPort.examine_barred (.inr (.inr (.inl rfl)))]; rfl
    | false =>
      have hp : passed := fun u hu => by rwa [Option.some.inj (hu.symm.trans ht)]
      rw [PanelPort.examine_starts hst hslot (hpassed.2 hp)]; rfl
  · exact exec_panelHoldFall_examines (PanelPort.examine_starts hst hslot (hpassed.2 hp)) nofun
  · exact exec_panelHoldFall_examines (PanelPort.examine_barred (.inr (.inr (.inr (mt hpassed.1 hp))))) hfault
  · exact PanelPort.examine_barred (.inr (.inr (.inr (mt hpassed.1 hp))))
  · exact PanelPort.examine_starts (p := { p with slot := some plate }) hst rfl (hpassed.2 hp)
  · exact PanelPort.examine_barred (.inr (.inr (.inl rfl)))

end Sys2Proof.Machine
end

section
/-! PROOFS. From the last bit of a plate to the refreshed panel (O54). -/

namespace Sys2Proof.Machine

/-- R153, R185: the last bit is out 80 µs a byte after the first began. -/
theorem exec_plateClockedOut {s : State} {plate : Plate} {t : Nat} (hdelivery : s.panel.delivery = some plate)
    (hclocked : s.panel.clocked = some t) (hle : 80 * (encodePlate 0 plate).length ≤ t) (hsending : s.panel.isSending = true) :
    exec .plateClockedOut s = .next { s with panel := s.panel.sent } := by
  have hwait : s.panel.clockWait = some 0 := by
    simp only [PanelPort.clockWait, hdelivery, hclocked, onlyIf_pos hsending, plateClockTime, Nat.sub_eq_zero_of_le hle]
  show execPlateClockedOut s = _
  rw [execPlateClockedOut, hwait, State.after_due]

/-- R153, R179: an awaited acknowledge. -/
theorem exec_panelAck_awaited {s : State} (h : s.panel.isAwaiting = true) (busy : Bool) :
    exec (.panelAck busy) s = .next { s with
      pins := { s.pins with panelBusy := busy }
      panel := s.panel.acked.busyLevel busy s.settings.intervalTime s.pins.panelHold
      port := { s.port with delivered := true } } := congrArg _ (if_pos h)

/-- R153: an edge that is not awaited; only the level of PANEL_BUSY found with it counts. -/
theorem exec_panelAck_disregarded {s : State} (h : s.panel.isAwaiting = false) (busy : Bool) :
    exec (.panelAck busy) s = .next { s with
      pins := { s.pins with panelBusy := busy }
      panel := s.panel.busyLevel busy s.settings.intervalTime s.pins.panelHold } := congrArg _ (if_neg (by simpa using h))

theorem exec_panelBusyFall (s : State) : exec .panelBusyFall s = .next { s with
    pins := { s.pins with panelBusy := false }
    panel := s.panel.busyLevel false s.settings.intervalTime s.pins.panelHold } := rfl

/-- A panel that is refreshing awaits no acknowledge. -/
theorem PanelPort.isAwaiting_of_isRefreshing {p : PanelPort} (h : p.isRefreshing = true) : p.isAwaiting = false := by
  rw [← Bool.not_eq_true, p.isAwaiting_iff]
  rcases p.isRefreshing_iff.1 h with hst | ⟨hst, hphase⟩
  · simp [hst]
  · simp [hst, hphase]

/-- Settles O54. -/
theorem acknowledgeLeadsToTheRefresh : Obligations.AcknowledgeLeadsToTheRefresh := by
  intro s hpos p done acked
  have hacked : p.acked = acked := p.acked_eq
  refine ⟨fun plate t hdelivery hclocked hle => ⟨fun hst => ?_, fun hst hphase => ?_⟩, fun busy hawait => ?_,
    fun busy hawait hrefresh => ?_, fun busy hrefresh => ?_, fun hrefresh => ?_, fun hrefresh => ?_⟩
  · rw [exec_plateClockedOut hdelivery hclocked hle (p.isSending_iff.2 (.inl hst)),
      PanelPort.sent_delivery (show p.st ≠ .fault by rw [hst]; decide)]
  · rw [exec_plateClockedOut hdelivery hclocked hle (p.isSending_iff.2 (.inr ⟨hst, hphase⟩)), PanelPort.sent_attempt hst]
  · rw [exec_panelAck_awaited (p.isAwaiting_iff.2 hawait), PanelPort.busyLevel_refreshing hpos p.acked_isRefreshing, hacked]
    rfl
  · rw [exec_panelAck_disregarded hawait, PanelPort.busyLevel_still hrefresh]
  · have hrefreshing := p.isRefreshing_iff.2 hrefresh
    rw [exec_panelAck_disregarded (PanelPort.isAwaiting_of_isRefreshing hrefreshing),
      PanelPort.busyLevel_refreshing hpos hrefreshing]
    rfl
  · rw [exec_panelBusyFall, PanelPort.busyLevel_refreshing hpos (p.isRefreshing_iff.2 hrefresh)]
    rfl
  · rw [exec_panelBusyFall, PanelPort.busyLevel_still hrefresh]

end Sys2Proof.Machine
end

section
/-! PROOFS. The panel faults and is tried again (O55). -/

namespace Sys2Proof.Machine

/-- R153: 500 ms without the acknowledge. -/
theorem exec_ackTimeout {s : State} {t : Nat} (h : s.panel.ackTimer = some t) (hle : 500000 ≤ t)
    (hawait : s.panel.isAwaiting = true) : exec .ackTimeout s = .next { s with
      panel := s.panel.ackTimedOut, port := s.port.raiseIf s.panel.ackTimeoutFaults .panelFault } := by
  show execAckTimeout s = _
  rw [execAckTimeout, onlyIf_pos hawait, timerWait_due (limit := ackLimit) h hle, State.after_due]

/-- R154: 10 s of redrawing with PANEL_BUSY high. -/
theorem exec_busyTimeout {s : State} {t : Nat} (h : s.panel.busyTimer = some t) (hle : 10000000 ≤ t)
    (hbusy : s.pins.panelBusy = true) (hrefresh : s.panel.isRefreshing = true) : exec .busyTimeout s = .next { s with
      panel := s.panel.busyTimedOut, port := s.port.raiseIf (decide (s.panel.st ≠ .fault)) .panelFault } := by
  show execBusyTimeout s = _
  rw [execBusyTimeout, onlyIf_pos (by rw [hrefresh, hbusy]; rfl), timerWait_due (limit := busyLimit) h hle, State.after_due]

/-- R156: 30 s since the last attempt. -/
theorem exec_faultTimerExpiry {s : State} {t : Nat} (h : s.panel.faultTimer = some t) (hle : 30000000 ≤ t)
    (hst : s.panel.st = .fault) : exec .faultTimerExpiry s = .next { s with
      panel := { s.panel with faultTimer := none, faultDue := true }.examineFault s.pins.panelHold } := by
  show execFaultTimerExpiry s = _
  rw [execFaultTimerExpiry, onlyIf_pos (decide_eq_true hst), timerWait_due (limit := faultLimit) h hle, State.after_due]

/-- R156, R157: in FAULT the fall of PANEL_HOLD starts an attempt that is due. -/
theorem exec_panelHoldFall_attempts {s : State} {plate : Plate} (hst : s.panel.st = .fault)
    (hslot : s.panel.slot = some plate) (hdue : s.panel.faultDue = true) : exec .panelHoldFall s = .next { s with
      pins := { s.pins with panelHold := false }, panel := s.panel.startAttempt plate } := by
  have hidle : s.panel.st ≠ .idle := by rw [hst]; decide
  rw [exec_panelHoldFall, PanelPort.examine_barred (.inr (.inl hidle)), PanelPort.examineFault_starts hst hslot hdue]

/-- Settles O55. -/
theorem panelFaultsAndTriesAgain : Obligations.PanelFaultsAndTriesAgain := by
  intro s p back fault failed attempt
  have hfault : fault = { s with panel := p.enterFault, port := s.port.raise .panelFault } := by
    rw [LocalPort.raise_panelFault]
    rfl
  refine ⟨fun t ht hle => ⟨fun hst hretry => ?_, fun hst hretry => ?_, fun hst hphase => ?_⟩,
    fun t ht hle hbusy => ⟨fun hst => ?_, fun hst hphase => ?_⟩, fun t plate hst hslot ht hle => ?_,
    fun plate => exec_panelHoldFall_attempts⟩
  · obtain ⟨hout, hraise⟩ := PanelPort.ackTimedOut_first hst hretry
    rw [exec_ackTimeout ht hle (p.isAwaiting_iff.2 (.inl hst)), hout, hraise]
    rfl
  · obtain ⟨hout, hraise⟩ := PanelPort.ackTimedOut_second hst hretry
    rw [exec_ackTimeout ht hle (p.isAwaiting_iff.2 (.inl hst)), hout, hraise, hfault]
    rfl
  · obtain ⟨hout, hraise⟩ := PanelPort.ackTimedOut_attempt hst
    rw [exec_ackTimeout ht hle (p.isAwaiting_iff.2 (.inr ⟨hst, hphase⟩)), hout, hraise]
    rfl
  · have hnot : p.st ≠ .fault := by rw [hst]; decide
    rw [exec_busyTimeout ht hle hbusy (p.isRefreshing_iff.2 (.inl hst)), PanelPort.busyTimedOut, if_neg hnot,
      decide_eq_true hnot, hfault]
    rfl
  · rw [exec_busyTimeout ht hle hbusy (p.isRefreshing_iff.2 (.inr ⟨hst, hphase⟩)), PanelPort.busyTimedOut, if_pos hst,
      decide_eq_false (not_not_intro hst)]
    rfl
  · rw [exec_faultTimerExpiry ht hle hst]
    cases s.pins.panelHold with
    | true => rw [PanelPort.examineFault_barred (.inr (.inr (.inr rfl)))]; rfl
    | false => rw [PanelPort.examineFault_starts (p := { p with faultTimer := none, faultDue := true }) hst hslot rfl]; rfl

end Sys2Proof.Machine
end

section
/-!
PROOFS. What RESET_N and the program cycle alone touch (O3): every other command leaves mode, reason, straps, treated configuration,
Configuration Memory and the target of a cycle under way as they are.
-/

namespace Sys2Proof.Machine

/-! ## The setting of a station -/

/-- What a program cycle writes, and where: the cycle without its measurements. -/
def ProgramCycle.target (c : ProgramCycle) : ProgramCycle := { c with lost := false, elapsed := 0 }

/-- What RESET_N and program cycles alone touch, with the queue; everything else at its reset value. -/
def State.setting (s : State) : State :=
  { State.reset with
    mode := s.mode, reason := s.reason, straps := s.straps, settings := s.settings, idField := s.idField, otp := s.otp
    locked := s.locked, cycle := s.cycle.map ProgramCycle.target, freeCount := s.freeCount, pending := s.pending }

/-- What the setting says of the state. -/
theorem State.setting_eq {s t : State} (h : t.setting = s.setting) :
    (t.mode = s.mode ∧ t.reason = s.reason ∧ t.straps = s.straps ∧ t.settings = s.settings ∧ t.idField = s.idField ∧
      t.otp = s.otp ∧ t.locked = s.locked ∧ t.freeCount = s.freeCount ∧ t.pending = s.pending) ∧
    t.cycle.map ProgramCycle.target = s.cycle.map ProgramCycle.target := by
  have field {α : Type} (f : State → α) : f t.setting = f s.setting := congrArg f h
  exact ⟨⟨field State.mode, field State.reason, field State.straps, field State.settings, field State.idField, field State.otp,
    field State.locked, field State.freeCount, field State.pending⟩, field State.cycle⟩

/-- Work of the lines and of Reception leaves it alone. -/
theorem State.setting_of_offLine {s t : State} (h : t.offLine = s.offLine) : t.setting = s.setting :=
  show t.offLine.setting = s.offLine.setting from congrArg _ h

/-! ## What leaves it alone -/

@[simp] theorem State.elapse_setting (n : Nat) (s : State) : (s.elapse n).setting = s.setting := by
  have hcycle : (s.elapse n).cycle.map ProgramCycle.target = s.cycle.map ProgramCycle.target := by
    rw [State.elapse_cycle, Option.map_map]
    rfl
  simp [State.setting, hcycle]

/-- R170: a fall of PGM_SUPPLY is recorded by the cycle, whose target stays. -/
@[simp] theorem State.supplyLevel_setting (level : Bool) (s : State) : (s.supplyLevel level).setting = s.setting := by
  have hcycle : (s.supplyLevel level).cycle.map ProgramCycle.target = s.cycle.map ProgramCycle.target := by
    rw [State.supplyLevel_cycle, Option.map_map]
    rfl
  simp only [State.setting, hcycle]
  rfl

theorem State.after_setting {f : State → State} (h : ∀ u, (f u).setting = u.setting) (w : Option Nat) (s : State) :
    (s.after w f).setting = s.setting := by
  rcases s.after_cases w f with ⟨-, e⟩ | ⟨n, -, e⟩ <;> rw [e]
  exact (h _).trans (State.elapse_setting n s)

theorem State.request_setting {code : Nat} {ok : Bool} {allowed : Mode → Bool} {act : State → State} {s : State}
    (h : (act s).setting = s.setting) : (s.request code ok allowed act).setting = s.setting := by
  rcases State.request_cases code ok allowed act s with e | ⟨st, e⟩ | ⟨-, -, -, -, -, e⟩ <;> rw [e]
  exacts [rfl, h]

/-- An event that comes about under a condition. -/
theorem State.setting_when {c : Prop} [Decidable c] {s t : State} (h : t.setting = s.setting) :
    (if c then t else s).setting = s.setting := by
  split
  exacts [h, rfl]

@[simp] theorem State.setLine_setting (l : LineId) (x : Line) (s : State) : (s.setLine l x).setting = s.setting :=
  State.setting_of_offLine (State.setLine_offLine l x s)

@[simp] theorem State.offer_setting (b : Body) (refresh prompt : Bool) (s : State) :
    (s.offer b refresh prompt).setting = s.setting := State.setting_of_offLine (State.offer_offLine b refresh prompt s)

@[simp] theorem State.beaconIndication_setting (s : State) : s.beaconIndication.setting = s.setting :=
  State.setting_of_offLine (State.beaconIndication_offLine s)

@[simp] theorem State.withZones_setting (z : ConditionList) (s : State) : (s.withZones z).setting = s.setting := by
  rw [State.withZones_frame]; rfl

@[simp] theorem State.timeEvent_setting (o : TimeOut) (s : State) : (s.timeEvent o).setting = s.setting := by
  rw [State.timeEvent_frame]; rfl

@[simp] theorem State.doJob_setting (job : Job) (upTo : Option Nat) (s : State) : (s.doJob job upTo).setting = s.setting :=
  State.setting_when rfl

@[simp] theorem State.offerOwn_setting (s : State) : s.offerOwn.setting = s.setting :=
  State.offer_setting s.zones.ownBody false false s

theorem State.buildPrompt_setting (s : State) : s.buildPrompt.setting = s.setting :=
  State.offer_setting (s.advertBody (s.routes.promptSet.take 20)) false true s

theorem State.buildRound_setting (s : State) : s.buildRound.setting = s.setting := by
  unfold State.buildRound
  dsimp only
  split
  exacts [rfl, State.offer_setting (s.advertBody s.routes.roundRooms) false false s]

theorem State.announce_setting (r : SessionRecord) (s : State) : (s.announce r).setting = s.setting := by
  have offered := State.offer_setting (.session r) false false s
  unfold State.announce
  dsimp only
  split
  · exact offered
  · split
    exacts [offered, offered]

theorem State.mergePost_setting (r : SessionRecord) (s : State) : (s.mergePost r).setting = s.setting := by
  unfold State.mergePost
  dsimp only
  split
  exacts [State.announce_setting r _, rfl]

theorem State.postZones_setting (closed notice : ZoneVec) (s : State) : (s.postZones closed notice).setting = s.setting :=
  (State.offerOwn_setting _).trans (State.withZones_setting _ s)

theorem State.setTime_setting (day ms : Nat) (s : State) : (s.setTime day ms).setting = s.setting :=
  (State.beaconIndication_setting _).trans (State.timeEvent_setting _ s)

theorem State.endPass_setting (p : Pass) (s : State) : (s.endPass p).setting = s.setting := by
  unfold State.endPass
  split <;> rfl

theorem State.takeReadSession_setting (body : List Byte) (s : State) : (s.takeReadSession body).setting = s.setting := by
  unfold State.takeReadSession
  split
  · split <;> rfl
  · rfl

theorem State.takeReadRoute_setting (room : Nat) (s : State) : (s.takeReadRoute room).setting = s.setting := by
  unfold State.takeReadRoute
  split <;> rfl

theorem State.readPlate_setting (s : State) : s.readPlate.setting = s.setting := by
  unfold State.readPlate
  split <;> rfl

theorem State.judgeVerify_setting (addr : Nat) (s : State) : (s.judgeVerify addr).setting = s.setting := by
  rw [State.judgeVerify_frame]; rfl

/-! ## Every command -/

/-- Every command but the two of RESET_N, PROGRAM WORD and the end of its cycle answers a next state with the same setting. -/
theorem exec_setting (c : Instr) (s : State) (hassert : c ≠ .resetNAssert) (hrelease : ∀ x d, c ≠ .resetNRelease x d)
    (hprogram : ∀ body supply, c ≠ .programWord body supply) (hend : c ≠ .programCycleEnd) :
    ∃ t, exec c s = .next t ∧ t.setting = s.setting := by
  have offLine {f : State → State} (h : ∀ u, (f u).offLine = u.offLine) (u : State) : (f u).setting = u.setting :=
    State.setting_of_offLine (h u)
  cases c with
  | resetNAssert => exact absurd rfl hassert
  | resetNRelease x d => exact absurd rfl (hrelease x d)
  | programWord body supply => exact absurd rfl (hprogram body supply)
  | programCycleEnd => exact absurd rfl hend
  | lineIdleGap l draw =>
    exact ⟨_, rfl, State.setting_when
      ((State.after_setting (offLine (State.afterGap_offLine l draw)) _ _).trans (State.setLine_setting l _ s))⟩
  | lineBusy l => exact ⟨_, rfl, State.setting_when (offLine (State.goBusy_offLine l) s)⟩
  | backoffExpiry l => exact ⟨_, rfl, State.after_setting (offLine (State.countDone_offLine l)) _ s⟩
  | echoFailure l =>
    refine ⟨_, rfl, State.setting_when ?_⟩
    split
    exacts [offLine (State.enterDown_offLine l) s, State.setLine_setting l _ s]
  | collision l => exact ⟨_, rfl, State.setting_when (offLine (State.collide_offLine l) s)⟩
  | frameSent l => exact ⟨_, rfl, State.after_setting (offLine (State.sentOn_offLine l)) _ s⟩
  | carrierStuck l =>
    refine ⟨_, rfl, ?_⟩
    split
    exacts [(State.after_setting (offLine (State.enterStuck_offLine l)) _ _).trans (State.setLine_setting l _ s), rfl]
  | stuckLineRecovery l =>
    exact ⟨_, rfl, State.setting_when
      ((State.after_setting (fun u => State.setLine_setting l _ u) _ _).trans (State.setLine_setting l _ s))⟩
  | startDelimiter l =>
    refine ⟨_, rfl, State.setting_when ((State.setLine_setting l _ _).trans ?_)⟩
    split
    exacts [rfl, offLine (State.goBusy_offLine l) s]
  | frameEnd l bytes =>
    refine ⟨_, rfl, ?_⟩
    split
    · have ended := State.setLine_setting l ((s.line l).endReception bytes) s
      dsimp only
      split
      exacts [(State.setting_of_offLine (State.sortFrame_offLine _ _ _)).trans ended, ended]
    · rfl
  | beaconHandover =>
    refine ⟨_, rfl, ?_⟩
    split
    · split
      exacts [State.timeEvent_setting _ _, rfl]
    · rfl
  | roundEnd => exact ⟨_, rfl, State.after_setting (fun u => State.timeEvent_setting _ u) _ s⟩
  | beaconTimerExpiry =>
    refine ⟨_, rfl, State.after_setting (fun u => ?_) _ s⟩
    exact State.beaconIndication_setting { u with time := _ }
  | setTime body =>
    refine ⟨_, rfl, State.request_setting ?_⟩
    split
    · split
      exacts [State.setTime_setting _ _ s, rfl]
    · rfl
  | inboundMerge | localPortRouteRead =>
    refine ⟨_, rfl, ?_⟩
    split
    · split <;> rfl
    · rfl
  | postingBufferMerge =>
    refine ⟨_, rfl, ?_⟩
    split
    · refine State.setting_when ?_
      split
      exacts [State.mergePost_setting _ s, rfl]
    · rfl
  | housekeepingRemoval =>
    refine ⟨_, rfl, ?_⟩
    split
    · refine State.setting_when ?_
      split <;> rfl
    · rfl
  | refreshScanGrant =>
    refine ⟨_, rfl, ?_⟩
    split
    · refine State.setting_when ?_
      dsimp only
      split
      · split
        exacts [State.offer_setting _ _ _ _, rfl]
      · rfl
    · rfl
  | localPortSessionRead =>
    refine ⟨_, rfl, State.setting_when ?_⟩
    split
    · split <;> rfl
    · rfl
  | advertHandover =>
    refine ⟨_, rfl, ?_⟩
    split
    · split
      exacts [State.setting_when rfl, rfl]
    · rfl
  | advertJob | conditionRecomputation | pinSetUpdate | sweep => exact ⟨_, rfl, State.doJob_setting _ _ s⟩
  | frameBuilding =>
    refine ⟨_, rfl, State.setting_when ?_⟩
    split
    exacts [State.buildPrompt_setting s, State.buildRound_setting s]
  | roundRetry =>
    refine ⟨_, rfl, State.after_setting (fun u => ?_) _ s⟩
    dsimp only
    split
    exacts [State.buildRound_setting _, rfl]
  | conditionHandover =>
    refine ⟨_, rfl, ?_⟩
    split
    · split
      exacts [State.withZones_setting _ _, rfl]
    · rfl
  | contributionExpiry | spillClear => exact ⟨_, rfl, State.after_setting (fun u => State.withZones_setting _ u) _ s⟩
  | postZones body =>
    refine ⟨_, rfl, State.request_setting ?_⟩
    split
    exacts [State.postZones_setting _ _ s, rfl]
  | ownFrameRetry | ownFrameResend => exact ⟨_, rfl, State.after_setting State.offerOwn_setting _ s⟩
  | passEnd =>
    refine ⟨_, rfl, ?_⟩
    split
    exacts [State.setting_when (State.endPass_setting _ s), rfl]
  | duplicateEntryExpiry | minuteEvent | refreshDue | tombstoneExpiry | sweepTimerExpiry | roundDue | promptDue
  | validUntilReached | panelIntervalExpiry | plateClockedOut | ackTimeout | busyTimeout | faultTimerExpiry =>
    refine ⟨_, rfl, State.after_setting (fun _ => ?_) _ s⟩
    rfl
  | composerSessionRead => exact ⟨_, rfl, State.setting_when rfl⟩
  | composerRouteRead | panelAck => exact ⟨_, rfl, by split <;> rfl⟩
  | panelBusyFall | panelHoldFall | panelHoldRise => exact ⟨_, rfl, rfl⟩
  | readStatus | lineRestart | postSession => exact ⟨_, rfl, State.request_setting rfl⟩
  | ackNotices | setAttentionEnables | clearAttentionEnables => exact ⟨_, rfl, State.request_setting (by split <;> rfl)⟩
  | readPlate => exact ⟨_, rfl, State.request_setting (State.readPlate_setting s)⟩
  | readSessionByIndex body | readSessionNextChanged body =>
    exact ⟨_, rfl, State.request_setting (State.takeReadSession_setting body s)⟩
  | readRoute body =>
    refine ⟨_, rfl, State.request_setting ?_⟩
    split
    exacts [State.takeReadRoute_setting _ s, rfl]
  | pgmSupplyFall => exact ⟨_, rfl, State.supplyLevel_setting false s⟩
  | verifyWord body supply =>
    refine ⟨_, rfl, (State.request_setting ?_).trans (State.supplyLevel_setting supply s)⟩
    split
    exacts [State.judgeVerify_setting _ _, rfl]
  | requestCodeNamesNoRequest code body => exact ⟨_, rfl, State.setting_when (State.request_setting rfl)⟩

/-! ## PROGRAM WORD -/

/-- What a property of the state as it is, of every answer, and of what the request does, says of the request (R172 to R174). -/
theorem State.request_holds {p : State → Prop} {code : Nat} {ok : Bool} {allowed : Mode → Bool} {act : State → State} {s : State}
    (still : p s) (answered : ∀ st, p (s.answer st code [])) (acts : allowed s.mode = true → p (act s)) :
    p (s.request code ok allowed act) := by
  rcases State.request_cases code ok allowed act s with e | ⟨st, e⟩ | ⟨-, -, -, -, hmode, e⟩ <;> rw [e]
  exacts [still, answered st, acts hmode]

/-- A PROGRAM WORD judged is answered, or begins a cycle on a word of an unlocked array (R169). -/
theorem State.judgeProgram_cases (addr : Nat) (pattern : Word) (s : State) :
    (∃ st, s.judgeProgram addr pattern = s.answer st 0x0C []) ∨
    (addr ≤ 127 ∧ s.locked = false ∧ s.judgeProgram addr pattern = s.startCycle addr pattern) := by
  unfold State.judgeProgram
  split
  · exact .inl ⟨_, rfl⟩
  split
  · exact .inl ⟨_, rfl⟩
  split
  · exact .inl ⟨_, rfl⟩
  split
  · exact .inl ⟨_, rfl⟩
  · exact .inr ⟨Nat.not_lt.1 ‹_›, Bool.eq_false_iff.2 ‹_›, rfl⟩

/-- The setting is kept, or in PROGRAM a cycle begins on a word of an unlocked array. -/
inductive BeginsCycleAtMost (s t : State) : Prop
  | kept (h : t.setting = s.setting)
  | begun (addr : Nat) (pattern : Word) (hmode : s.mode = .program) (haddr : addr ≤ 127) (hlock : s.locked = false)
      (h : t.setting = (s.startCycle addr pattern).setting)

/-- PROGRAM_WORD (R169, R174). -/
theorem exec_programWord_setting (body : List Byte) (supply : Bool) (s : State) :
    ∃ t, exec (.programWord body supply) s = .next t ∧ BeginsCycleAtMost s t := by
  have level := State.supplyLevel_setting supply s
  refine ⟨_, rfl, State.request_holds (.kept level) (fun st => .kept level) fun hmode => ?_⟩
  split
  · next a p1 p0 _ =>
    rcases State.judgeProgram_cases a.toNat (p1 ++ p0) (s.supplyLevel supply) with ⟨st, e⟩ | ⟨haddr, hlock, e⟩ <;> rw [e]
    exacts [.kept level, .begun _ _ (of_decide_eq_true hmode) haddr hlock rfl]
  · exact .kept level

/-- Settles O3: each operation of a command but RESET_N and the end of a program cycle leaves the setting alone, and a PROGRAM WORD
begins a cycle at most. -/
theorem onlyResetAndProgrammingTouchTheSetting : Obligations.OnlyResetAndProgrammingTouchTheSetting := by
  intro c s t hassert hrelease hend h
  by_cases hprogram : ∃ body supply, c = .programWord body supply
  · obtain ⟨body, supply, rfl⟩ := hprogram
    obtain ⟨u, hu, hbegins⟩ := exec_programWord_setting body supply s
    obtain rfl := Host.Outcome.next.inj (hu.symm.trans h)
    cases hbegins with
    | kept e => exact (State.setting_eq e).1
    | begun addr pattern _ _ _ e => exact (State.setting_eq e).1
  · obtain ⟨u, hu, e⟩ := exec_setting c s hassert hrelease (fun body supply e => hprogram ⟨body, supply, e⟩) hend
    obtain rfl := Host.Outcome.next.inj (hu.symm.trans h)
    exact (State.setting_eq e).1

end Sys2Proof.Machine
end

section
/-!
PROOFS. The Configuration Memory over every step (O9): a step keeps the array, or places in it a word that a cycle of an unlocked array
leaves; the lock state is word 127's; and a cycle under way is one on the word as it still reads.
-/

namespace Sys2Proof.Machine

/-! ## What a program cycle leaves (R169, R170) -/

/-- The word that a cycle leaves at its end: w AND v, or with the supply lost an undetermined one. -/
def ProgramCycle.outcome (free : Word) (c : ProgramCycle) : Word :=
  if c.lost then undeterminedWord c.before c.pattern free else c.before &&& c.pattern

/-- The end of a cycle, said once for both cases. -/
theorem State.endCycle_eq {s : State} {c : ProgramCycle} (h : s.cycle = some c) :
    s.endCycle = { s with
      otp := otpPlace c.addr (c.outcome (Config.undeterminedBits s.freeCount)) s.otp, cycle := none
      locked := if c.addr = 127 then otpLocked (otpPlace c.addr (c.outcome (Config.undeterminedBits s.freeCount)) s.otp)
        else s.locked
      freeCount := if c.lost then s.freeCount + 1 else s.freeCount
      port := s.port.complete (if c.lost then .supplyLost else .ok) 0x0C [] } := by
  unfold State.endCycle
  rw [h]
  cases hlost : c.lost <;> simp only [State.cycleLost, State.cycleDone, ProgramCycle.outcome, ProgramCycle.cutShort, hlost] <;> rfl

/-- A cut-short word has no one that was not there. -/
theorem undeterminedWord_le {before pattern free : Word} {i : Nat} (h : (undeterminedWord before pattern free).getLsbD i = true) :
    before.getLsbD i = true := by
  rw [undeterminedWord_bit, Bool.and_eq_true] at h
  exact h.1

/-- The word that a cycle leaves has no one that was not there (R168). -/
theorem ProgramCycle.outcome_le {c : ProgramCycle} {free : Word} {i : Nat} (h : (c.outcome free).getLsbD i = true) :
    c.before.getLsbD i = true := by
  unfold ProgramCycle.outcome at h
  split at h
  · exact undeterminedWord_le h
  · rw [BitVec.getLsbD_and, Bool.and_eq_true] at h
    exact h.1

/-! ## From one state to the next -/

/-- What a step leaves of a sound Configuration Memory. -/
structure MemoryStep (s t : State) : Prop where
  words : t.otp = s.otp ∨ ∃ a w, s.locked = false ∧ a ≤ 127 ∧ t.otp = otpPlace a w s.otp ∧
    ∀ i, w.getLsbD i = true → (otpRead s.otp a).getLsbD i = true
  lock : t.locked = otpLocked t.otp
  cycle : ∀ c, t.cycle = some c → t.mode = .program ∧ t.locked = false ∧ c.addr ≤ 127 ∧ c.before = otpRead t.otp c.addr

theorem MemoryStep.memoryOk {s t : State} (h : MemoryStep s t) (hs : MemoryOk s) : MemoryOk t := by
  refine ⟨?_, ?_, h.lock, h.cycle⟩ <;> rcases h.words with e | ⟨a, w, -, ha, e, -⟩ <;> rw [e]
  · exact hs.wf
  · exact otpWf_place a w s.otp hs.wf
  · exact hs.inRange
  · intro c hc
    rcases mem_otpPlace hc with ⟨rfl, -⟩ | hc
    exacts [ha, hs.inRange c hc]

/-- R168: words lose ones alone, whatever address. -/
theorem MemoryStep.bits {s t : State} (h : MemoryStep s t) (hs : MemoryOk s) (a i : Nat)
    (hi : (otpRead t.otp a).getLsbD i = true) : (otpRead s.otp a).getLsbD i = true := by
  rcases h.words with e | ⟨b, w, -, -, e, hw⟩ <;> rw [e] at hi
  · exact hi
  · by_cases hab : a = b
    · subst hab
      rw [otpRead_place_same a w s.otp hs.wf] at hi
      exact hw i hi
    · rwa [otpRead_place_other w s.otp hab] at hi

/-- R168: a locked array is fixed. -/
theorem MemoryStep.fixed {s t : State} (h : MemoryStep s t) (hlocked : s.locked = true) : t.otp = s.otp := by
  rcases h.words with e | ⟨a, w, hunlocked, -, -, -⟩
  · exact e
  · exact absurd hlocked (by simp [hunlocked])

/-- What leaves the setting alone. -/
theorem MemoryStep.of_setting {s t : State} (h : t.setting = s.setting) (hs : MemoryOk s) : MemoryStep s t := by
  obtain ⟨⟨hmode, -, -, -, -, hotp, hlocked, -, -⟩, hcycle⟩ := State.setting_eq h
  refine ⟨.inl hotp, by rw [hlocked, hotp]; exact hs.lock, fun c hc => ?_⟩
  rw [hc, Option.map_some, eq_comm, Option.map_eq_some_iff] at hcycle
  obtain ⟨b, hb, htarget⟩ := hcycle
  have field {α : Type} (f : ProgramCycle → α) : f b.target = f c.target := congrArg f htarget
  have haddr : b.addr = c.addr := field ProgramCycle.addr
  have hbefore : b.before = c.before := field ProgramCycle.before
  rw [hmode, hlocked, hotp, ← haddr, ← hbefore]
  exact hs.cycle b hb

/-- Only array and lock state of the first state count. -/
theorem MemoryStep.congr {s u t : State} (hotp : u.otp = s.otp) (hlocked : u.locked = s.locked) (h : MemoryStep u t) :
    MemoryStep s t :=
  ⟨by rw [← hotp, ← hlocked]; exact h.words, h.lock, h.cycle⟩

/-- R169: PROGRAM WORD begins a cycle of the word as it reads. -/
theorem MemoryStep.of_begins {s t : State} (h : BeginsCycleAtMost s t) (hs : MemoryOk s) : MemoryStep s t := by
  cases h with
  | kept h => exact .of_setting h hs
  | begun addr pattern hmode haddr hlock h =>
    refine .congr (u := s.startCycle addr pattern) rfl rfl (.of_setting h ⟨hs.wf, hs.inRange, hs.lock, fun c hc => ?_⟩)
    obtain rfl := Option.some.inj hc
    exact ⟨hmode, hlock, haddr, rfl⟩

/-- R169, R170: the end of the cycle under way. -/
theorem MemoryStep.endCycle {s : State} (hs : MemoryOk s) : MemoryStep s s.endCycle := by
  cases hc : s.cycle with
  | none => exact .of_setting (by rw [State.endCycle, hc]) hs
  | some c =>
    obtain ⟨-, hunlocked, haddr, hbefore⟩ := hs.cycle c hc
    rw [State.endCycle_eq hc]
    refine ⟨.inr ⟨c.addr, _, hunlocked, haddr, rfl, fun i hi => hbefore ▸ ProgramCycle.outcome_le hi⟩, ?_, fun _ h => nomatch h⟩
    dsimp only
    split
    · rfl
    · next h127 => rw [hs.lock, otpLocked, otpLocked, otpRead_place_other _ _ (Ne.symm h127)]

/-- R170: a reset cuts a cycle under way short. -/
theorem MemoryStep.assert {s t : State} (hs : MemoryOk s) (h : exec .resetNAssert s = .next t) : MemoryStep s t := by
  obtain rfl := Host.Outcome.next.inj h
  refine ⟨?_, rfl, fun _ h => nomatch h⟩
  show s.otpCutShort = s.otp ∨ _
  unfold State.otpCutShort
  split
  · next c hc =>
    obtain ⟨-, hunlocked, haddr, hbefore⟩ := hs.cycle c hc
    exact .inr ⟨c.addr, _, hunlocked, haddr, rfl, fun i hi => hbefore ▸ undeterminedWord_le hi⟩
  · exact .inl rfl

theorem State.start_memory (s : State) : s.start.otp = s.otp ∧ s.start.locked = s.locked ∧ s.start.cycle = s.cycle := by
  unfold State.start
  repeat' split
  all_goals exact ⟨rfl, rfl, rfl⟩

/-- R168: START reads the lock state; in START no cycle is under way. -/
theorem MemoryStep.release {s : State} (hs : MemoryOk s) (hstart : s.mode = .start) (x : Straps) (d : Bool) :
    MemoryStep s (s.sample x d).start := by
  obtain ⟨hotp, hlocked, hcycle⟩ := State.start_memory (s.sample x d)
  refine ⟨.inl hotp, by rw [hlocked, hotp]; rfl, fun c hc => ?_⟩
  rw [hcycle] at hc
  obtain ⟨hmode, -⟩ := hs.cycle c hc
  rw [hstart] at hmode
  cases hmode

/-- Every command from a sound Configuration Memory. -/
theorem exec_memoryStep {c : Instr} {s t : State} (hs : MemoryOk s) (h : exec c s = .next t) : MemoryStep s t := by
  have next_of {p : State → Prop} (hc : ∃ u, exec c s = .next u ∧ p u) : p t := by
    obtain ⟨u, hu, hp⟩ := hc
    obtain rfl := Host.Outcome.next.inj (hu.symm.trans h)
    exact hp
  by_cases hassert : c = .resetNAssert
  · exact .assert hs (hassert ▸ h)
  by_cases hrelease : ∃ x d, c = .resetNRelease x d
  · obtain ⟨x, d, rfl⟩ := hrelease
    obtain rfl := Host.Outcome.next.inj h
    split
    exacts [.release hs ‹_› x d, .of_setting rfl hs]
  by_cases hprogram : ∃ body supply, c = .programWord body supply
  · obtain ⟨body, supply, rfl⟩ := hprogram
    exact .of_begins (next_of (exec_programWord_setting body supply s)) hs
  by_cases hend : c = .programCycleEnd
  · subst hend
    obtain rfl := Host.Outcome.next.inj h
    rcases s.after_cases s.cycleWait State.endCycle with ⟨-, e⟩ | ⟨n, -, e⟩ <;> rw [e]
    · exact .of_setting rfl hs
    · have elapsed : MemoryOk (s.elapse n) := (MemoryStep.of_setting (State.elapse_setting n s) hs).memoryOk hs
      exact .congr (State.elapse_otp n s) (State.elapse_locked n s) (.endCycle elapsed)
  · have hset := exec_setting c s hassert (fun x d e => hrelease ⟨x, d, e⟩) (fun body supply e => hprogram ⟨body, supply, e⟩) hend
    exact .of_setting (next_of hset) hs

/-- R168 to R170: every step from a sound Configuration Memory. -/
theorem step_memoryStep {s t : State} (hs : MemoryOk s) (h : step s = .next t) : MemoryStep s t := by
  rcases step_origin h with ⟨c, p, h⟩ | ⟨job, rfl⟩ | rfl
  · have popped : MemoryOk { s with pending := p } := ⟨hs.wf, hs.inRange, hs.lock, hs.cycle⟩
    have hstep := exec_memoryStep popped h
    exact ⟨hstep.words, hstep.lock, hstep.cycle⟩
  · exact .of_setting (State.doJob_setting job _ s) hs
  · exact .of_setting (State.elapse_setting 1 s) hs

/-- Settles O9: a step keeps the array or places a word that a cycle of an unlocked array leaves, which has no one that was not there. -/
theorem configurationMemoryStaysSound : Obligations.ConfigurationMemoryStaysSound := by
  refine ⟨fun s t hs h => (step_memoryStep hs h).memoryOk hs, fun s t hs h => ?_⟩
  have hstep := step_memoryStep hs h
  exact ⟨hstep.bits hs, fun h127 => hstep.fixed (hs.lock.trans (decide_eq_true h127))⟩

end Sys2Proof.Machine
end

section
/-!
PROOFS. RESET_N_ASSERT (O4), the end of a program cycle (O7), and the requests of programming (O8).
-/

namespace Sys2Proof.Machine

/-! ## The undetermined word (R170) -/

/-- A bit that the cycle targeted is undetermined. -/
theorem undeterminedWord_targeted {before pattern : Word} {i : Nat} (hbefore : before.getLsbD i = true)
    (hpattern : pattern.getLsbD i = false) (free : Word) :
    (undeterminedWord before pattern free).getLsbD i = free.getLsbD i := by
  simp [undeterminedWord_bit, hbefore, hpattern]

/-- Every other bit is as before. -/
theorem undeterminedWord_spared {before pattern : Word} {i : Nat}
    (h : ¬(before.getLsbD i = true ∧ pattern.getLsbD i = false)) (free : Word) :
    (undeterminedWord before pattern free).getLsbD i = before.getLsbD i := by
  rw [undeterminedWord_bit]
  cases hbefore : before.getLsbD i with
  | false => rfl
  | true => simp [show pattern.getLsbD i = true by simpa [hbefore] using h]

/-! ## RESET_N_ASSERT and the end of a cycle -/

/-- Settles O4: with a cycle under way, by what `undeterminedWord` does to each bit of its word. -/
theorem resetAssertRestoresTheResetValues : Obligations.ResetAssertRestoresTheResetValues := by
  refine fun s => ⟨fun hc => ?_, fun c hc hwf => ?_⟩
  · show execResetNAssert s = _
    simp only [execResetNAssert, State.otpCutShort, State.freeAfterCut, hc]
    rfl
  · have hread := otpRead_place_same c.addr (undeterminedWord c.before c.pattern (Config.undeterminedBits s.freeCount)) s.otp hwf
    refine ⟨c.cutShort (Config.undeterminedBits s.freeCount) s.otp, ?_, otpWf_place _ _ _ hwf,
      fun a ha => otpRead_place_other _ _ ha, fun i hi => ?_, fun i _ hbefore hpattern => ?_⟩
    · show execResetNAssert s = _
      simp only [execResetNAssert, State.otpCutShort, State.freeAfterCut, hc]
      rfl
    · exact (congrArg (·.getLsbD i) hread).trans (undeterminedWord_spared hi _)
    · exact (congrArg (·.getLsbD i) hread).trans (undeterminedWord_targeted hbefore hpattern _)

/-- Settles O7, by the one equation of the end of a cycle. -/
theorem programCycleEndWritesTheWord : Obligations.ProgramCycleEndWritesTheWord := by
  intro s c hc helapsed hwf
  have hread := otpRead_place_same c.addr (c.outcome (Config.undeterminedBits s.freeCount)) s.otp hwf
  refine ⟨otpPlace c.addr (c.outcome (Config.undeterminedBits s.freeCount)) s.otp, otpWf_place _ _ _ hwf,
    fun a ha => otpRead_place_other _ _ ha, fun hlost => ?_, fun hlost i _ => ?_, ?_⟩
  · rw [hread, ProgramCycle.outcome, hlost]
    rfl
  · rw [hread, ProgramCycle.outcome, if_pos hlost]
    split
    · next h => exact undeterminedWord_targeted h.1 h.2 _
    · next h => exact undeterminedWord_spared h _
  · have hdue : s.cycleWait = some 0 := by
      simp only [State.cycleWait, hc, Option.map_some, cycleTime, Nat.sub_eq_zero_of_le helapsed]
    show Host.Outcome.next (s.after s.cycleWait State.endCycle) = _
    rw [hdue, State.after_due, State.endCycle_eq hc]
    cases c.lost <;> rfl

/-! ## PROGRAM WORD and VERIFY WORD -/

/-- A word as two bytes, most significant first. -/
theorem be16_word (w : Word) : be16 w.toNat = [w.extractLsb' 8 8, w.extractLsb' 0 8] := by
  have hw := w.isLt
  simp only [be16, List.cons.injEq, and_true]
  constructor <;> refine BitVec.eq_of_toNat_eq ?_ <;> rw [byte_toNat, BitVec.extractLsb'_toNat, Nat.shiftRight_eq_div_pow]
  simp

theorem byte_of_toNat (b : Byte) : byte b.toNat = b :=
  (BitVec.ofNat_toNat 8 b).trans (BitVec.setWidth_eq b)

/-- In PROGRAM with nothing in hand a request of PROGRAM is carried out (R174). -/
theorem PortReady.request_carried {s : State} (h : PortReady .program s) (code : Nat) (act : State → State) (level : Bool) :
    (s.supplyLevel level).request code true inProgram act = act (s.supplyLevel level) :=
  State.request_carried h.enabled h.free (by simp [h.mode]) rfl (by simp [h.mode, inProgram])

theorem State.supplyLevel_isSome_cycle (level : Bool) (s : State) :
    (s.supplyLevel level).cycle.isSome = true ↔ s.cycle.isSome = true := by
  rw [State.supplyLevel_cycle, Option.isSome_map]

/-- R169. -/
theorem programWordIsJudgedInOrder : Claims.ProgramWordIsJudgedInOrder := by
  intro s a p1 p0 extra supply hs t
  have hform : decide (3 ≤ (a :: p1 :: p0 :: extra).length) = true := by simp
  have hsupply : (!t.pins.pgmSupply) = true ↔ supply = false := Bool.not_eq_true' supply ▸ Iff.rfl
  show Host.Outcome.next (t.request 0x0C (decide _) inProgram _) = _
  rw [hform, hs.request_carried]
  exact congrArg _ (if_congr (s.supplyLevel_isSome_cycle supply) rfl <| if_congr Iff.rfl rfl <| if_congr Iff.rfl rfl <|
    if_congr hsupply rfl rfl)

/-- R170, R171. -/
theorem supplyFallAndVerifyWord : Claims.SupplyFallAndVerifyWord := by
  refine ⟨fun s => ?_, fun s a extra supply hs => ?_⟩
  · show Host.Outcome.next (s.supplyLevel false) = _
    simp only [State.supplyLevel, Bool.not_false, Bool.or_true]
  · intro t
    have hform : decide (1 ≤ (a :: extra).length) = true := by simp
    have hverified : t.answer .ok 0x0D (byte a.toNat :: be16 (otpRead s.otp a.toNat).toNat) =
        t.responds [0x00, 0x0D, a, (otpRead s.otp a.toNat).extractLsb' 8 8, (otpRead s.otp a.toNat).extractLsb' 0 8] := by
      rw [be16_word, byte_of_toNat]
      rfl
    show Host.Outcome.next (t.request 0x0D (decide _) inProgram _) = _
    rw [hform, hs.request_carried]
    exact congrArg _ (if_congr (s.supplyLevel_isSome_cycle supply) rfl <| if_congr Iff.rfl rfl <| if_congr Iff.rfl rfl hverified)

/-- Settles O8: the request is carried out, and its cases stand in the model's order. -/
theorem programmingRequestsAreJudged : Obligations.ProgrammingRequestsAreJudged :=
  ⟨programWordIsJudgedInOrder, supplyFallAndVerifyWord⟩

end Sys2Proof.Machine
end

section
/-!
PROOFS. The treated configuration lies in its ranges (O6): each part of the record read, on its own.
-/

namespace Sys2Proof.Machine

/-! ## The room name (R162, R186) -/

/-- Eight bits of a word as a byte. -/
theorem byte_field (x : Word) (lo : Nat) : byte (field x lo 8) = x.extractLsb' lo 8 := by
  refine BitVec.eq_of_toNat_eq ?_
  rw [byte_toNat, BitVec.extractLsb'_toNat, Nat.shiftRight_eq_div_pow]
  exact Nat.mod_mod _ 256

/-- R162: no character is a control code. -/
theorem cleanChar_printable (c : Byte) : 0x20 ≤ (cleanChar c).toNat := by
  unfold cleanChar
  split
  exacts [by decide, by omega]

theorem readRoomName_length (w : Nat → Word) : (readRoomName w).length = min ((w 5).toNat % 256) 24 := by
  simp [readRoomName, field]

theorem readRoomName_printable {w : Nat → Word} {c : Byte} (h : c ∈ readRoomName w) : 0x20 ≤ c.toNat := by
  obtain ⟨i, -, rfl⟩ := List.mem_map.1 h
  exact cleanChar_printable _

/-- R186: two characters to a word, high byte first. -/
theorem readRoomName_getElem? {w : Nat → Word} {i : Nat} (h : i < (readRoomName w).length) :
    (readRoomName w)[i]? = some (cleanChar ((w (6 + i / 2)).extractLsb' (if i % 2 = 0 then 8 else 0) 8)) := by
  rw [readRoomName_length] at h
  have hi : i < min (field (w 5) 0 8) 24 := by simpa [field] using h
  rw [readRoomName, List.getElem?_map, List.getElem?_range hi, Option.map_some]
  split <;> rw [byte_field]

/-! ## The link slots (R163, R186) -/

/-- R163: the slot's link is in use. -/
def LinkUsed (w : Nat → Word) (i : Nat) : Prop :=
  (w (20 + 3 * i)).getLsbD 0 = false ∧ 1 ≤ (w (18 + 3 * i)).toNat ∧ (w (18 + 3 * i)).toNat ≤ 4000 ∧
    w (18 + 3 * i) ≠ w 0 ∧ w (19 + 3 * i) ≠ 0

/-- R163, R186: what a slot in use gives. -/
def linkOf (w : Nat → Word) (i : Nat) : Link :=
  { index := i, neighbour := (w (18 + 3 * i)).toNat, zone := field (w (20 + 3 * i)) 8 5, glyph := field (w (20 + 3 * i)) 2 3,
    length := min (w (19 + 3 * i)).toNat 4000, stairs := !(w (20 + 3 * i)).getLsbD 1 }

theorem readLink_eq_some {w : Nat → Word} {i : Nat} {k : Link} :
    readLink w (w 0).toNat i = some k ↔ LinkUsed w i ∧ k = linkOf w i := by
  have hlength : 18 + 3 * i + 1 = 19 + 3 * i := by omega
  have hflags : 18 + 3 * i + 2 = 20 + 3 * i := by omega
  have hzero : (w (19 + 3 * i)).toNat = 0 ↔ w (19 + 3 * i) = 0 := (BitVec.toNat_inj (y := 0#16))
  simp only [readLink, hlength, hflags, Option.ite_none_left_eq_some, Option.some.injEq, eq_comm (b := k)]
  refine and_congr ?_ Iff.rfl
  simp only [Bool.or_eq_true, decide_eq_true_eq, not_or, Bool.not_eq_true, Nat.not_lt, BitVec.toNat_inj, hzero, LinkUsed, ne_eq,
    Nat.one_le_iff_ne_zero, and_assoc]

/-- The links in use, by slot (R163). -/
theorem mem_links {w : Nat → Word} {k : Link} : k ∈ (readSettings w).links ↔ ∃ i, i < 6 ∧ LinkUsed w i ∧ k = linkOf w i := by
  simp only [readSettings, List.mem_filterMap, List.mem_range, readLink_eq_some]

theorem links_ascending (w : Nat → Word) : ((readSettings w).links.map (·.index)).Pairwise (· < ·) := by
  rw [List.pairwise_map]
  refine List.pairwise_filterMap.2 (List.pairwise_lt_range.imp fun {i j} hij k hk l hl => ?_)
  obtain ⟨-, rfl⟩ := readLink_eq_some.1 hk
  obtain ⟨-, rfl⟩ := readLink_eq_some.1 hl
  exact hij

/-! ## Directory and room filters (R164, R186) -/

/-- Values gathered once each, as they first occur. -/
theorem foldl_gather (f : Nat → Nat) (p : Nat → Bool) (l acc : List Nat) (hacc : acc.Nodup) :
    let out := l.foldl (fun acc i => if p (f i) && !acc.contains (f i) then acc ++ [f i] else acc) acc
    out.Nodup ∧ ∀ r, r ∈ out ↔ r ∈ acc ∨ (p r = true ∧ ∃ i ∈ l, f i = r) := by
  induction l generalizing acc with
  | nil => simpa using hacc
  | cons i l ih =>
    rw [List.foldl_cons]
    by_cases hi : p (f i) = true ∧ f i ∉ acc
    · have hnew : f i ∉ acc := hi.2
      have hstep : (acc ++ [f i]).Nodup := hacc.append (List.nodup_singleton _) (List.disjoint_singleton.2 hnew)
      rw [if_pos (by simpa using hi)]
      obtain ⟨hnodup, hmem⟩ := ih _ hstep
      refine ⟨hnodup, fun r => (hmem r).trans ?_⟩
      simp only [List.mem_append, List.mem_singleton, List.exists_mem_cons_iff]
      grind
    · rw [if_neg (by simpa using hi)]
      obtain ⟨hnodup, hmem⟩ := ih _ hacc
      refine ⟨hnodup, fun r => (hmem r).trans ?_⟩
      simp only [List.exists_mem_cons_iff]
      grind

theorem readDirectory_spec (w : Nat → Word) : (readDirectory w).Nodup ∧
    ∀ r, r ∈ readDirectory w ↔ (1 ≤ r ∧ r ≤ 1023 ∧ ∃ i, i < 16 ∧ (w (36 + i)).toNat = r) := by
  obtain ⟨hnodup, hmem⟩ := foldl_gather (fun i => (w (36 + i)).toNat) roomOk (List.range 16) [] .nil
  refine ⟨hnodup, fun r => (hmem r).trans ?_⟩
  simp [roomOk, and_assoc]

/-- R164: the filters in use, in slot order. -/
theorem readFilters_eq (w : Nat → Word) (l : List Nat) :
    l.filterMap (readFilter w) = (l.filter fun i => !(w (52 + 2 * i)).getLsbD 15).map fun i =>
      { value := (w (52 + 2 * i)).toNat % 1024, mask := (w (53 + 2 * i)).toNat % 1024 } := by
  induction l with
  | nil => rfl
  | cons i l ih =>
    simp only [List.filterMap_cons, List.filter_cons, ih, readFilter, field, Nat.pow_zero, Nat.div_one]
    cases (w (52 + 2 * i)).getLsbD 15 <;> rfl

/-- Settles O6, by the parts of the record: name, link slots, directory, filters, and the clamped numbers. -/
theorem treatedConfigurationLiesInItsRanges : Obligations.TreatedConfigurationLiesInItsRanges := by
  intro w st used
  obtain ⟨hnodup, hdirectory⟩ := readDirectory_spec w
  refine ⟨rfl, rfl, ?_, ?_, ?_, ?_, readRoomName_length w, fun c => readRoomName_printable, fun i hi => ?_,
    links_ascending w, fun i => ?_, fun k hk => ?_, hnodup, hdirectory, readFilters_eq w [0, 1, 2, 3]⟩
  · show min (w 3).toNat 120 = _
    split <;> omega
  · show (if (w 4).toNat = 0 then 1 else min (w 4).toNat 60) = _
    split
    · rfl
    · split <;> omega
  · simp [st, readSettings, field]
  · show (if (w 2).getLsbD 8 then OverflowPolicy.limit else .substitute) = _ ↔ _
    split <;> simp_all
  · exact readRoomName_getElem? hi
  · constructor
    · rintro ⟨k, hk, rfl⟩
      obtain ⟨i, hi, hused, rfl⟩ := mem_links.1 hk
      exact ⟨hi, hused⟩
    · rintro ⟨hi, hused⟩
      exact ⟨linkOf w i, mem_links.2 ⟨i, hi, hused, rfl⟩, rfl⟩
  · obtain ⟨i, -, -, rfl⟩ := mem_links.1 hk
    exact ⟨rfl, rfl, by simp [linkOf], by simp [linkOf, field], by simp [linkOf, field]⟩

end Sys2Proof.Machine
end

section
/-!
PROOFS. START (O5): the mode that RESET_N_RELEASE chooses, the fixed plates, and the Route Table on entry to RUN.
-/

namespace Sys2Proof.Machine

/-! ## The checks of the record (R161) -/

theorem recordSum_eq (w : Nat → Word) : recordSum w = ∑ i ∈ Finset.range 63, (w i).toNat := rfl

section
variable {w : Nat → Word}

theorem validateRecord_blank (h : w 63 ≠ 0) : validateRecord w = some .blank := if_pos h

theorem validateRecord_checksum (h : w 63 = 0) (hsum : (∑ i ∈ Finset.range 63, (w i).toNat) % 65536 ≠ 0) :
    validateRecord w = some .checksum := by
  rw [← recordSum_eq] at hsum
  exact (if_neg (not_not.2 h)).trans (if_pos hsum)

theorem validateRecord_summed (h : w 63 = 0) (hsum : (∑ i ∈ Finset.range 63, (w i).toNat) % 65536 = 0) :
    validateRecord w = if (w 0).toNat < 1 || 4000 < (w 0).toNat then some .badId else none := by
  rw [← recordSum_eq] at hsum
  exact (if_neg (not_not.2 h)).trans (if_neg (not_not.2 hsum))

theorem validateRecord_badId (h : w 63 = 0) (hsum : (∑ i ∈ Finset.range 63, (w i).toNat) % 65536 = 0)
    (hid : (w 0).toNat = 0 ∨ 4000 < (w 0).toNat) : validateRecord w = some .badId := by
  rw [validateRecord_summed h hsum, if_pos (by simp; omega)]

theorem validateRecord_good (h : w 63 = 0) (hsum : (∑ i ∈ Finset.range 63, (w i).toNat) % 65536 = 0)
    (hlow : 1 ≤ (w 0).toNat) (hhigh : (w 0).toNat ≤ 4000) : validateRecord w = none := by
  rw [validateRecord_summed h hsum, if_neg (by simp; omega)]

end

/-! ## The fixed plates (R148, R152, R166, R167) -/

theorem exec_resetNRelease {s : State} (h : s.mode = .start) (x : Straps) (d : Bool) :
    exec (.resetNRelease x d) s = .next (s.sample x d).start := congrArg Host.Outcome.next (if_pos h)

/-- R150, R152: the first offer to a Panel Port that PANEL_DETECT has been sampled for. -/
theorem PanelPort.offer_sampled (d hold : Bool) (limit : Nat) (plate : Plate) :
    { PanelPort.reset with st := if d then .idle else .absent }.offer limit hold plate =
      if d && !hold then
        { PanelPort.reset with st := .sending, delivery := some plate, attemptSeq := 0, clocked := some 0 }
      else { PanelPort.reset with st := if d then .idle else .absent, slot := some plate } := by
  cases d
  · exact PanelPort.examine_barred (.inr (.inl (by simp)))
  · cases hold
    · show PanelPort.examine limit false { PanelPort.reset with st := .idle, slot := some plate } = _
      rw [PanelPort.examine_starts rfl rfl (PanelPort.passed_iff.2 (by simp [PanelPort.reset]))]
      simp [PanelPort.startDelivery, PanelPort.reset]
    · exact PanelPort.examine_barred (.inr (.inr (.inl rfl)))

/-- A fixed plate offered by a station in START, in the mode that shows it. -/
theorem State.offerFixed_sampled {s : State} (hc : s.composer = Composer.reset) (hp : s.panel = PanelPort.reset) (x : Straps)
    (d : Bool) (mode : Mode) (reason : Option Reason) (plate : Plate) :
    { s.sample x d with mode := mode, reason := reason }.offerFixed plate = { s with
      mode := mode, reason := reason, straps := x, locked := otpLocked s.otp, idField := (otpRead s.otp 0).toNat
      composer := { Composer.reset with st := .fixed, cache := some (fixedCache plate), offered := some plate }
      panel :=
        if d && !s.pins.panelHold then
          { PanelPort.reset with st := .sending, delivery := some plate, attemptSeq := 0, clocked := some 0 }
        else { PanelPort.reset with st := if d then .idle else .absent, slot := some plate } } := by
  rw [← PanelPort.offer_sampled d s.pins.panelHold s.settings.intervalTime plate]
  simp only [State.offerFixed, State.sample, hc, hp]

/-- R166, R167: a record not taken into use. -/
theorem releaseEntersProgramOrUnassigned : Claims.ReleaseEntersProgramOrUnassigned := by
  intro s x d hstart hc hp w fixed
  refine ⟨fun hprog hport => ?_, fun r hprog hr => ?_⟩
  · have henter : (s.sample x d).start = (s.sample x d).enterProgram := if_pos (by simp [progHonoured, State.sample, hprog, hport])
    rw [exec_resetNRelease hstart, henter]
    exact congrArg _ (State.offerFixed_sampled hc hp x d .program none .programming)
  · have hrecord : validateRecord w = some r := by
      rcases hr with ⟨h, rfl⟩ | ⟨h, hsum, rfl⟩ | ⟨h, hsum, hid, rfl⟩
      exacts [validateRecord_blank h, validateRecord_checksum h hsum, validateRecord_badId h hsum hid]
    have henter : (s.sample x d).start = (s.sample x d).enterUnassigned r := by
      rw [State.start, if_neg (by simp only [progHonoured, State.sample, hprog]; decide)]
      rw [show validateRecord (otpRead (s.sample x d).otp) = some r from hrecord]
    rw [exec_resetNRelease hstart, henter]
    exact congrArg _ (State.offerFixed_sampled hc hp x d .unassigned (some r) (.unassigned r (w 0).toNat))

/-! ## The Route Table on entry to RUN (R119) -/

/-- The rooms that have an entry on entry to RUN: the home room, if any, and the directory. -/
def Settings.startRooms (st : Settings) : List Nat := (if st.homeRoom = 0 then [] else [st.homeRoom]) ++ st.directory

theorem Settings.mem_startRooms {st : Settings} {r : Nat} :
    r ∈ st.startRooms ↔ st.isHome r = true ∨ r ∈ st.directory := by
  rw [Settings.isHome_iff, Settings.startRooms]
  split <;> simp [*]

/-- R93: the home room's best while its zone is open. -/
def homeBest : Best := { cost := .finite 0 0, link := none }

/-- R119: the entry that a room has then; the home room's has been recomputed. -/
def startEntry (st : Settings) (r : Nat) : RouteEntry :=
  if st.isHome r then { freshEntry st [] r with any := homeBest, level := homeBest, changeCount := 1 } else freshEntry st [] r

theorem startEntry_home {st : Settings} {r : Nat} (h : st.isHome r = true) :
    startEntry st r = { freshEntry st [] r with any := homeBest, level := homeBest, changeCount := 1 } := if_pos h

theorem startEntry_other {st : Settings} {r : Nat} (h : ¬st.isHome r = true) : startEntry st r = freshEntry st [] r := if_neg h

/-- Room, stored values and pinned flag are a fresh entry's. -/
theorem startEntry_fields (st : Settings) (r : Nat) :
    (startEntry st r).room = r ∧ (startEntry st r).stored = [] ∧ (startEntry st r).pinned = pinnedRoom st [] r := by
  unfold startEntry
  split <;> exact ⟨rfl, rfl, rfl⟩

@[simp] theorem startEntry_room (st : Settings) (r : Nat) : (startEntry st r).room = r := by
  obtain ⟨h, -⟩ := startEntry_fields st r
  exact h

/-- R100: each of these rooms is pinned. -/
theorem pinnedRoom_of_mem_startRooms {st : Settings} {r : Nat} (h : r ∈ st.startRooms) : pinnedRoom st [] r = true := by
  rcases Settings.mem_startRooms.1 h with h | h <;> simp [pinnedRoom, h]

/-- The Route Engine on entry to RUN, but for the recomputation of the home room: its timers run (R119). -/
def RouteEngine.atStart (st : Settings) (entries : List RouteEntry) : RouteEngine :=
  { RouteEngine.reset with
    entries := entries, nextRound := some (st.stationId % 30 * 1000000), nextSweep := some retryTime }

theorem RouteEngine.atStart_put (st : Settings) (entries : List RouteEntry) (x : RouteEntry) :
    (RouteEngine.atStart st entries).put x = .atStart st (putEntry x entries) := rfl

/-- R115: the first room to join the prompt set starts the prompt timer, the route clock being at 0. -/
theorem RouteEngine.atStart_joinPrompt (st : Settings) (entries : List RouteEntry) (r : Nat) :
    (RouteEngine.atStart st entries).joinPrompt r =
      { RouteEngine.atStart st entries with promptSet := [r], promptAt := some retryTime } := by
  have hdue : (RouteEngine.atStart st entries).clock + retryTime = retryTime := Nat.zero_add _
  rw [RouteEngine.joinPrompt, hdue]
  rfl

/-- Entries created for some rooms, in a table in room order. -/
theorem RouteEngine.foldl_create (st : Settings) (rooms : List Nat) (e : RouteEngine) (he : InRoomOrder e.entries) :
    ∃ entries, rooms.foldl (fun e r => e.create st r) e = { e with entries := entries } ∧ InRoomOrder entries ∧
      ∀ y, y ∈ entries ↔ (∃ r ∈ rooms, y = freshEntry st e.pinSet r) ∨ (y ∈ e.entries ∧ y.room ∉ rooms) := by
  induction rooms generalizing e with
  | nil => exact ⟨e.entries, rfl, he, by simp⟩
  | cons r rooms ih =>
    obtain ⟨entries, hfold, horder, hmem⟩ := ih (e.create st r) (putEntry_ascending he)
    refine ⟨entries, hfold, horder, fun y => ?_⟩
    have hput : y ∈ (e.create st r).entries ↔ y = freshEntry st e.pinSet r ∨ (y ∈ e.entries ∧ y.room ≠ r) := mem_putEntry he
    have hpins : (e.create st r).pinSet = e.pinSet := rfl
    rw [hmem, hput, hpins]
    simp only [List.exists_mem_cons_iff]
    simp only [List.mem_cons, not_or]
    by_cases hy : y = freshEntry st e.pinSet r
    · by_cases hr : r ∈ rooms
      · exact iff_of_true (.inl ⟨r, hr, hy⟩) (.inl (.inl hy))
      · have hroom : y.room = r := congrArg RouteEntry.room hy
        exact iff_of_true (.inr ⟨.inl hy, hroom ▸ hr⟩) (.inl (.inl hy))
    · simp only [hy, false_or, and_assoc]

/-- R92: a fresh entry's candidates raise no notice. -/
theorem freshEntry_formNotices (st : Settings) (closed : ZoneVec) (pins : List Nat) (r : Nat) :
    (freshEntry st pins r).formNotices st closed = 0 := by
  refine BitVec.eq_of_getLsbD_eq fun i _ => ?_
  rw [Bool.eq_iff_iff, RouteEntry.formNotices_iff]
  have plain (level : Bool) (k : Link) : (candidate st closed level k none).notices = 0 := by
    unfold candidate
    split <;> rfl
  have hheld (level : Bool) (i : Nat) : (freshEntry st pins r).held level i = none := rfl
  simp [hheld, plain]

/-- R93, R96, R106: the home room's fresh entry recomputed, no zone being closed. -/
theorem RouteEngine.recompute_home {st : Settings} {r : Nat} (h : st.isHome r = true) (e : RouteEngine) :
    ∃ reports, e.work.recompute st 0 (freshEntry st [] r) =
      { eng := (e.put (startEntry st r)).joinPrompt r, notices := 0, reports := reports } := by
  have hopen : homeCandidate st 0 = .finite 0 0 := if_neg (by simp [zoneSet])
  have hrec : (freshEntry st [] r).recomputed st 0 = { freshEntry st [] r with any := homeBest, level := homeBest } := by
    rw [RouteEntry.recomputed, RouteEntry.selected_home h, RouteEntry.selected_home h, hopen]
    rfl
  have hchanged : homeBest ≠ Best.unknown := by decide
  have hnone : e.work.notices ||| 0 = 0 := by simp [RouteEngine.work]
  refine ⟨[.changed r homeBest homeBest], ?_⟩
  rw [RouteOut.recompute, hrec, freshEntry_formNotices, if_pos (.inl hchanged), startEntry_home h, hnone]
  rfl

theorem Settings.foldl_startRooms (st : Settings) (e : RouteEngine) :
    st.directory.foldl (fun e r => e.create st r) (if st.homeRoom = 0 then e else e.create st st.homeRoom) =
      st.startRooms.foldl (fun e r => e.create st r) e := by
  rw [Settings.startRooms, List.foldl_append]
  split <;> rfl

theorem RouteEngine.enterRun_reset (st : Settings) :
    RouteEngine.reset.enterRun st =
      let e := st.startRooms.foldl (fun e r => e.create st r) (RouteEngine.atStart st [])
      match e.entry st.homeRoom with
      | some x => if st.homeRoom = 0 then e.work else e.work.recompute st e.kept x
      | none => e.work := by
  rw [← Settings.foldl_startRooms]
  rfl

/-- R119: what entry to RUN makes of the Route Engine as reset leaves it. -/
theorem RouteEngine.enterRun_spec (st : Settings) : ∃ entries reports,
    RouteEngine.reset.enterRun st =
      { eng := { RouteEngine.atStart st entries with
          promptSet := if st.homeRoom = 0 then [] else [st.homeRoom]
          promptAt := if st.homeRoom = 0 then none else some retryTime }
        notices := 0, reports := reports } ∧
    ∀ y, y ∈ entries ↔ ∃ r ∈ st.startRooms, y = startEntry st r := by
  obtain ⟨entries, hmade, horder, hmem⟩ := RouteEngine.foldl_create st st.startRooms (.atStart st []) .nil
  have hfresh (y : RouteEntry) : y ∈ entries ↔ ∃ r ∈ st.startRooms, y = freshEntry st [] r :=
    (hmem y).trans ⟨fun h => h.resolve_right fun h => List.not_mem_nil h.1, .inl⟩
  have hfold : st.startRooms.foldl (fun e r => e.create st r) (RouteEngine.atStart st []) = .atStart st entries := hmade
  rw [RouteEngine.enterRun_reset, hfold]
  by_cases hhome : st.homeRoom = 0
  · have hother (r : Nat) : startEntry st r = freshEntry st [] r := startEntry_other (by simp [Settings.isHome_iff, hhome])
    refine ⟨entries, [], ?_, fun y => by simp only [hother, hfresh]⟩
    simp only [hhome, if_true]
    split <;> rfl
  · have hisHome : st.isHome st.homeRoom = true := (st.isHome_iff _).2 ⟨hhome, rfl⟩
    have hstart : st.homeRoom ∈ st.startRooms := Settings.mem_startRooms.2 (.inl hisHome)
    have hother {r : Nat} (h : r ≠ st.homeRoom) : startEntry st r = freshEntry st [] r :=
      startEntry_other fun hr => h ((st.isHome_iff r).1 hr).2
    have hentry : (RouteEngine.atStart st entries).entry st.homeRoom = some (freshEntry st [] st.homeRoom) :=
      (RouteEngine.entry_eq_some horder).2 ⟨(hfresh _).2 ⟨_, hstart, rfl⟩, rfl⟩
    obtain ⟨reports, hrecompute⟩ := RouteEngine.recompute_home hisHome (.atStart st entries)
    refine ⟨putEntry (startEntry st st.homeRoom) entries, reports, ?_, fun y => ?_⟩
    · have hkept : (RouteEngine.atStart st entries).kept = 0 := rfl
      simp only [hentry, if_neg hhome, hkept, hrecompute, RouteEngine.atStart_put, RouteEngine.atStart_joinPrompt]
    · rw [mem_putEntry horder, hfresh, startEntry_room]
      constructor
      · rintro (rfl | ⟨⟨r, hr, rfl⟩, hne⟩)
        exacts [⟨_, hstart, rfl⟩, ⟨r, hr, (hother hne).symm⟩]
      · rintro ⟨r, hr, rfl⟩
        by_cases h : r = st.homeRoom
        · exact .inl (by rw [h])
        · exact .inr ⟨⟨r, hr, hother h⟩, by rwa [startEntry_room]⟩

/-! ## Entry to RUN (R119, R149, R165) -/

/-- Work on the table that raises no notice leaves the Composer as it is at reset, whatever it reports. -/
theorem State.withRoutes_of_reset {s : State} (hc : s.composer = Composer.reset) (e : RouteEngine) (reports : List RouteReport) :
    s.withRoutes { eng := e, notices := 0, reports := reports } = { s with routes := e } := by
  have unmoved : Composer.reset.onRoutes s.passNow reports = Composer.reset :=
    Composer.onRoutes_keeps (· = Composer.reset) _ (fun c hc => by rw [hc]; rfl) reports rfl
  have hport : s.port.raiseMask 0 = s.port := by simp [LocalPort.raiseMask]
  rw [State.withRoutes, hc, unmoved, hport, ← hc]

/-- R119, R149, R165: a record taken into use. -/
theorem releaseWithGoodRecordEntersRun : Claims.ReleaseWithGoodRecordEntersRun := by
  intro s x d hstart hquiet hprog w hmark hsum hlow hhigh st
  have hmode : s.mode ≠ .run := by rw [hstart]; decide
  obtain ⟨hcomposer, hpanel⟩ := hquiet.start hstart
  have henter : (s.sample x d).start = (s.sample x d).enterRun st := by
    rw [State.start, if_neg (by simp only [progHonoured, State.sample, hprog]; decide)]
    rw [show validateRecord (otpRead (s.sample x d).otp) = none from validateRecord_good hmark hsum hlow hhigh]
    rfl
  have hroutes : (s.sample x d).routes = RouteEngine.reset := hquiet.routes hmode
  obtain ⟨entries, reports, hspec, hmem⟩ := RouteEngine.enterRun_spec st
  refine ⟨entries, ?_, ?_, ?_, ?_, ?_⟩
  · rw [exec_resetNRelease hstart, henter, State.enterRun, hroutes, hspec, State.withRoutes_of_reset (by exact hcomposer)]
    simp only [State.firstPass, State.sample, State.passNow, hcomposer, hpanel, hquiet.time hmode, hquiet.zones hmode]
    rfl
  · intro e he
    obtain ⟨r, hr, rfl⟩ := (hmem e).1 he
    obtain ⟨hroom, hstored, hpinned⟩ := startEntry_fields st r
    rw [hroom, hpinned, pinnedRoom_of_mem_startRooms hr]
    exact ⟨rfl, hstored, (Settings.mem_startRooms.1 hr).imp (fun h => ((st.isHome_iff r).1 h).symm) id⟩
  · intro r hr
    have hmade : r ∈ st.startRooms := Settings.mem_startRooms.2
      (hr.imp (fun ⟨hhome, hne⟩ => (st.isHome_iff r).2 ⟨hhome ▸ hne, hhome⟩) id)
    exact ⟨_, (hmem _).2 ⟨r, hmade, rfl⟩, startEntry_room st r⟩
  · intro e he hne
    obtain ⟨r, hr, rfl⟩ := (hmem e).1 he
    rw [startEntry_room] at hne
    rw [startEntry_other fun h => hne ((st.isHome_iff r).1 h).2]
    exact ⟨rfl, rfl, rfl⟩
  · intro hhome e he hroom
    obtain ⟨r, hr, rfl⟩ := (hmem e).1 he
    rw [startEntry_room] at hroom
    rw [startEntry_home ((st.isHome_iff r).2 ⟨hhome, hroom⟩)]
    exact ⟨rfl, rfl, rfl⟩

/-- Settles O5, record not taken into use and record taken into use. -/
theorem releaseChoosesTheMode : Obligations.ReleaseChoosesTheMode :=
  ⟨releaseEntersProgramOrUnassigned, releaseWithGoodRecordEntersRun⟩

end Sys2Proof.Machine
end

section
/-!
PROOFS. How a request taken by the Local Port is turned away, in order, and the bytes of a transaction on SDI and SDO (O56).
-/

namespace Sys2Proof.Machine

/-! ## The order of the judgement (R172 to R174) -/

section
variable {code : Nat} {ok : Bool} {allowed : Mode → Bool} {act : State → State} {s : State}

/-- R172: with PORT_EN low no request is taken. -/
theorem State.request_disabled (h : s.straps.portEn = false) : s.request code ok allowed act = s := by
  simp [State.request, h]

/-- R173: while a request is in hand every other is turned away. -/
theorem State.request_busy (henabled : s.straps.portEn = true) (hhand : s.port.inHand.isSome = true) :
    s.request code ok allowed act = s.answer .busy code [] := by
  simp [State.request, henabled, hhand]

/-- R174: START comes before the form. -/
theorem State.request_start (henabled : s.straps.portEn = true) (hfree : s.port.inHand = none) (hmode : s.mode = .start) :
    s.request code ok allowed act = s.answer .refusedMode code [] := by
  simp [State.request, henabled, hfree, hmode]

/-- R174: the form comes before the mode. -/
theorem State.request_malformed (henabled : s.straps.portEn = true) (hfree : s.port.inHand = none) (hmode : s.mode ≠ .start)
    (hform : ok = false) : s.request code ok allowed act = s.answer .malformed code [] := by
  simp [State.request, henabled, hfree, hmode, hform]

/-- R174: a form that is right in a mode that is not. -/
theorem State.request_refused (henabled : s.straps.portEn = true) (hfree : s.port.inHand = none) (hmode : s.mode ≠ .start)
    (hform : ok = true) (hallowed : allowed s.mode = false) :
    s.request code ok allowed act = s.answer .refusedMode code [] := by
  simp [State.request, henabled, hfree, hmode, hform, hallowed]

end

/-- An answer without data, as the bytes of the buffer. -/
theorem State.answer_nil (st : ReqStatus) (code : Byte) (s : State) :
    s.answer st code.toNat [] = s.responds [byte st.code, code] := by
  simp only [State.answer, LocalPort.answer, responseBytes, byte_of_toNat]
  rfl

/-! ## The request that a command is -/

/-- A command is the request of a code, taken by the port in state `t`: the port judges its form by `bodyShort` and its mode by
`allowedIn`. START is left out, where the judgement has ended before the form. -/
def IsRequest (c : Instr) (code : Byte) (s t : State) : Prop :=
  ∃ (ok : Bool) (allowed : Mode → Bool) (act : State → State), exec c s = .next (t.request code.toNat ok allowed act) ∧
    (ok = false ↔ bodyShort c) ∧ ∀ m, m ≠ .start → (allowed m = true ↔ allowedIn c m)

theorem postFormOk_eq_false_iff (body : List Byte) :
    postFormOk body = false ↔ body = [] ∨ ∃ n rest, body = n :: rest ∧ rest.length < n.toNat := by
  cases body with
  | nil => simp [postFormOk]
  | cons n rest => simp [postFormOk]

theorem one_le_length_eq_false_iff (body : List Byte) : decide (1 ≤ body.length) = false ↔ body = [] := by
  cases body <;> simp

theorem length_form_eq_false_iff (n : Nat) (body : List Byte) : decide (n ≤ body.length) = false ↔ body.length < n := by
  simp

theorem inRun_iff (m : Mode) : inRun m = true ↔ m = .run := decide_eq_true_iff

theorem inProgram_iff (m : Mode) : inProgram m = true ↔ m = .program := decide_eq_true_iff

/-- R172 to R174, R184: each command that is one of the thirteen requests is judged by its own form and modes. -/
theorem isRequest_of_requestCode {c : Instr} {code : Byte} (h : requestCode c = some code) (s : State) :
    IsRequest c code s (s.sampled c) := by
  cases c <;> cases h
  case readStatus => exact ⟨_, _, _, rfl, iff_of_false nofun id, fun _ hm => iff_of_true rfl hm⟩
  case readPlate | lineRestart => exact ⟨_, _, _, rfl, iff_of_false nofun id, fun m _ => inRun_iff m⟩
  case ackNotices | readRoute => exact ⟨_, _, _, rfl, length_form_eq_false_iff 2 _, fun m _ => inRun_iff m⟩
  case setAttentionEnables | clearAttentionEnables =>
    exact ⟨_, _, _, rfl, length_form_eq_false_iff 3 _, fun m _ => inRun_iff m⟩
  case postSession => exact ⟨_, _, _, rfl, postFormOk_eq_false_iff _, fun m _ => inRun_iff m⟩
  case readSessionByIndex | readSessionNextChanged =>
    exact ⟨_, _, _, rfl, one_le_length_eq_false_iff _, fun m _ => inRun_iff m⟩
  case setTime => exact ⟨_, _, _, rfl, length_form_eq_false_iff 5 _, fun m _ => inRun_iff m⟩
  case postZones => exact ⟨_, _, _, rfl, length_form_eq_false_iff 8 _, fun m _ => inRun_iff m⟩
  case programWord => exact ⟨_, _, _, rfl, length_form_eq_false_iff 3 _, fun m _ => inProgram_iff m⟩
  case verifyWord => exact ⟨_, _, _, rfl, one_le_length_eq_false_iff _, fun m _ => inProgram_iff m⟩

/-- What the judgement reads of a state is the same once PGM_SUPPLY is sampled. -/
theorem State.sampled_reads (c : Instr) (s : State) :
    (s.sampled c).mode = s.mode ∧ (s.sampled c).straps = s.straps ∧ (s.sampled c).port = s.port := by
  unfold State.sampled
  split <;> exact ⟨rfl, rfl, rfl⟩

/-- R172 to R174. -/
theorem requestsTakenAreJudgedInOrder : Claims.RequestsTakenAreJudgedInOrder := by
  intro c code s hcode t
  obtain ⟨ok, allowed, act, hexec, hform, hallowed⟩ := isRequest_of_requestCode hcode s
  obtain ⟨hmode, hstraps, hport⟩ := s.sampled_reads c
  rw [hexec, ← hmode, ← hstraps, ← hport]
  refine ⟨fun hlow => ?_, fun hhigh hhand => ?_, fun hhigh hfree => ⟨fun hstart => ?_, fun hrun hshort => ?_,
    fun hrun hlong hnot => ?_⟩⟩
  · rw [State.request_disabled hlow]
  · rw [State.request_busy hhigh hhand, State.answer_nil]
    rfl
  · rw [State.request_start hhigh hfree hstart, State.answer_nil]
    rfl
  · rw [State.request_malformed hhigh hfree hrun (hform.2 hshort), State.answer_nil]
    rfl
  · have hok : ok = true := Bool.of_not_eq_false (mt hform.1 hlong)
    have hrefused : allowed (s.sampled c).mode = false := Bool.eq_false_of_not_eq_true (mt (hallowed _ hrun).1 hnot)
    rw [State.request_refused hhigh hfree hrun hok hrefused, State.answer_nil]
    rfl

/-! ## SDO (R172) -/

theorem State.sdo_eq_none {s : State} {csLow : Bool} (h : s.straps.portEn = false ∨ csLow = false) (n : Nat) :
    s.sdo csLow n = none :=
  if_neg (by simpa [or_iff_not_imp_left] using h)

/-- SDO driven carries the bytes of the response buffer. -/
theorem State.sdo_driven {s : State} (h : s.straps.portEn = true) (n : Nat) :
    s.sdo true n = some ((List.range n).map (s.port.sdoByte ·)) := by
  rw [State.sdo, h]
  rfl

/-- Beyond the response's end SDO carries 0x00. -/
theorem LocalPort.sdoByte_eq (p : LocalPort) (i : Nat) :
    p.sdoByte i = if h : i < p.response.length then p.response[i] else 0x00 := by
  rw [LocalPort.sdoByte, List.getD_eq_getElem?_getD]
  split
  · next h => rw [List.getElem?_eq_getElem h, Option.getD_some]
  · next h => rw [List.getElem?_eq_none (Nat.le_of_not_lt h), Option.getD_none]

/-! ## SDI (R172) -/

/-- The bits of a byte as they come, the most significant first. -/
def bitsOfByte (b : Byte) : List Bool := (List.range 8).map fun i => b.getMsbD i

/-- The next bit comes in behind the bits before it. -/
theorem byteOfBits_append (bits : List Bool) (c : Bool) :
    byteOfBits (bits ++ [c]) = byteOfBits bits <<< 1 ||| (if c then 1#8 else 0#8) :=
  List.foldl_append

/-- One more bit of a byte behind its first `k`. -/
theorem shiftIn_getMsbD (b : Byte) {k : Nat} (h : k < 8) :
    (b >>> (8 - k)) <<< 1 ||| (if b.getMsbD k then 1#8 else 0#8) = b >>> (7 - k) := by
  refine BitVec.eq_of_getLsbD_eq fun i hi => ?_
  have hbit (c : Bool) : (if c then 1#8 else 0#8).getLsbD i = (c && decide (i = 0)) := by
    cases c <;> simp [hi]
  rw [BitVec.getLsbD_or, hbit, BitVec.getLsbD_shiftLeft, BitVec.getLsbD_ushiftRight, BitVec.getLsbD_ushiftRight]
  rcases i with _ | i
  · simp [BitVec.getMsbD, h]
  · simp [hi, show 8 - k + i = 7 - k + (i + 1) by omega]

/-- The first `k` bits of a byte are the number they spell. -/
theorem byteOfBits_firstBits (b : Byte) :
    ∀ k, k ≤ 8 → byteOfBits ((List.range k).map fun i => b.getMsbD i) = b >>> (8 - k)
  | 0, _ => (BitVec.ushiftRight_eq_zero (Nat.le_refl 8)).symm
  | k + 1, h => by
    rw [List.range_succ, List.map_append, List.map_singleton, byteOfBits_append, byteOfBits_firstBits b k (by omega),
      shiftIn_getMsbD b h, Nat.succ_sub_succ]

/-- Eight bits make the byte they came from. -/
theorem byteOfBits_bitsOfByte (b : Byte) : byteOfBits (bitsOfByte b) = b :=
  (byteOfBits_firstBits b 8 (Nat.le_refl 8)).trans (BitVec.ushiftRight_zero b)

theorem wholeBytes_byte (b : Byte) (bits : List Bool) : wholeBytes (bitsOfByte b ++ bits) = b :: wholeBytes bits :=
  congrArg (· :: wholeBytes bits) (byteOfBits_bitsOfByte b)

/-- A partial byte is disregarded. -/
theorem wholeBytes_partial {bits : List Bool} (h : bits.length < 8) : wholeBytes bits = [] := by
  unfold wholeBytes
  split
  · simp at h
    omega
  · rfl

theorem wholeBytes_flatMap (bytes : List Byte) {rest : List Bool} (h : rest.length < 8) :
    wholeBytes (bytes.flatMap bitsOfByte ++ rest) = bytes := by
  induction bytes with
  | nil => exact wholeBytes_partial h
  | cons b bytes ih => rw [List.flatMap_cons, List.append_assoc, wholeBytes_byte, ih]

/-! ## The request that a transaction comes to (R184) -/

theorem transaction_noRequest (supply : Bool) {code : Byte} (h : 13 < code.toNat) (body : List Byte) :
    transaction supply (code :: body) = some (.requestCodeNamesNoRequest code body) := by
  obtain ⟨n, hn⟩ : ∃ n, code.toNat = n + 14 := ⟨code.toNat - 14, by omega⟩
  simp only [transaction, hn]

/-- The requests that a body can be of, by their codes; the sixth has two. -/
def requestsOf (body : List Byte) (supply : Bool) : List Instr :=
  [.readStatus body, .ackNotices body, .setAttentionEnables body, .clearAttentionEnables body, .postSession body,
    .readSessionByIndex body, .readSessionNextChanged body, .readRoute body, .readPlate body, .setTime body,
    .postZones body, .lineRestart body, .programWord body supply, .verifyWord body supply]

/-- A code from 1 to 13 but 6 has one request. -/
theorem transaction_single (supply : Bool) {code : Byte} (hlo : 1 ≤ code.toNat) (hhi : code.toNat ≤ 13) (hne : code ≠ 0x06)
    (body : List Byte) :
    ∃ c, transaction supply (code :: body) = some c ∧ requestCode c = some code ∧ c ∈ requestsOf body supply := by
  have hcode : code = 1 ∨ code = 2 ∨ code = 3 ∨ code = 4 ∨ code = 5 ∨ code = 7 ∨ code = 8 ∨ code = 9 ∨ code = 10 ∨
      code = 11 ∨ code = 12 ∨ code = 13 := by bv_omega
  obtain rfl | rfl | rfl | rfl | rfl | rfl | rfl | rfl | rfl | rfl | rfl | rfl := hcode <;>
    exact ⟨_, rfl, rfl, by simp [requestsOf]⟩

/-- Code 6 with the index byte 0xFF asks for the next changed session. -/
theorem transaction_nextChanged (supply : Bool) {body : List Byte} (h : body.head? = some 0xFF) :
    transaction supply (0x06 :: body) = some (.readSessionNextChanged body) :=
  congrArg some (if_pos h)

/-- Code 6 with any other body reads by index. -/
theorem transaction_byIndex (supply : Bool) {body : List Byte} (h : body.head? ≠ some 0xFF) :
    transaction supply (0x06 :: body) = some (.readSessionByIndex body) :=
  congrArg some (if_neg h)

/-- R184: a code from 1 to 13 is a request of its own code, and which of the two of code 6 the index byte decides. -/
theorem transaction_request (supply : Bool) {code : Byte} (hlo : 1 ≤ code.toNat) (hhi : code.toNat ≤ 13) (body : List Byte) :
    ∃ c, transaction supply (code :: body) = some c ∧ requestCode c = some code ∧ c ∈ requestsOf body supply ∧
      (c = .readSessionNextChanged body ↔ code = 0x06 ∧ body.head? = some 0xFF) := by
  by_cases hsix : code = 0x06
  · subst hsix
    by_cases hhead : body.head? = some 0xFF
    · exact ⟨_, transaction_nextChanged supply hhead, rfl, by simp [requestsOf], iff_of_true rfl ⟨rfl, hhead⟩⟩
    · exact ⟨_, transaction_byIndex supply hhead, rfl, by simp [requestsOf], iff_of_false nofun fun h => hhead h.2⟩
  · obtain ⟨c, htaken, hcode, hmem⟩ := transaction_single supply hlo hhi hsix body
    refine ⟨c, htaken, hcode, hmem, iff_of_false (fun hc => hsix ?_) fun h => hsix h.1⟩
    subst hc
    exact (Option.some.inj hcode).symm

/-- R172, R184. -/
theorem transactionsCarryBytes : Claims.TransactionsCarryBytes := by
  refine ⟨fun s csLow n => ⟨fun h => State.sdo_eq_none h n, fun henabled hlow => ?_⟩,
    fun bytes rest hrest => wholeBytes_flatMap bytes hrest,
    fun supply => ⟨rfl, fun _ => rfl, fun code body h => transaction_noRequest supply h body,
      fun code body hlo hhi => transaction_request supply hlo hhi body⟩⟩
  subst hlow
  refine ⟨_, State.sdo_driven henabled n, by simp, fun i hi => ?_⟩
  rw [List.getElem?_map, List.getElem?_range hi, Option.map_some, LocalPort.sdoByte_eq]

/-- Settles O56: the request that a command is, judged in the model's order, and the bytes of a transaction. -/
theorem requestsAreTurnedAwayInOrder : Obligations.RequestsAreTurnedAwayInOrder :=
  ⟨requestsTakenAreJudgedInOrder, transactionsCarryBytes⟩

end Sys2Proof.Machine
end

section
/-!
PROOFS. What the requests of the Local Port do that are answered at once or go into hand: READ_STATUS and READ_PLATE (O57), the
requests that take time (O58), ACK_NOTICES and the attention enables, and ATTN (O59).
-/

namespace Sys2Proof.Machine

/-- A request that meets its form, in a mode that allows it, is carried out by a port that is ready (R174). -/
theorem PortReady.carried {m : Mode} {s : State} (h : PortReady m s) (hm : m ≠ .start) {allowed : Mode → Bool}
    (hallowed : allowed m = true) (code : Nat) {ok : Bool} (hform : ok = true) (act : State → State) :
    s.request code ok allowed act = act s :=
  State.request_carried h.enabled h.free (h.mode ▸ hm) hform (h.mode ▸ hallowed)

/-- `PortReady.carried` for the requests of RUN. -/
theorem PortReady.carried_inRun {s : State} (h : PortReady .run s) (code : Nat) {ok : Bool} (hform : ok = true)
    (act : State → State) : s.request code ok inRun act = act s :=
  h.carried nofun rfl code hform act

/-! ## READ_STATUS (R58, R176) -/

theorem strapsCode_eq (x : Straps) :
    strapsCode x = (if x.lineRate then 1 else 0) + (if x.listenOnly then 2 else 0) + (if x.prog then 4 else 0)
      + (if x.portEn then 8 else 0) := rfl

/-- A trim in two's complement is its residue of 65,536. -/
theorem trimBytes_eq (trim : Int) : trimBytes trim = be16 (trim % 65536).toNat := by
  rw [trimBytes, BitVec.toNat_ofInt]
  rfl

theorem State.statusBlock_length (s : State) : s.statusBlock.length = 25 := rfl

/-- The status block, from the codes of its mode, its reason, its straps and its sync state. -/
theorem State.statusBlock_of_codes {s : State} {mode reason straps sync : Byte} (hmode : byte s.mode.code = mode)
    (hreason : byte (reasonCode s.reason) = reason) (hstraps : byte (strapsCode s.straps) = straps)
    (hsync : byte s.time.sync.code = sync) :
    s.statusBlock = [mode, reason, straps, sync, byte s.time.epoch, byte s.time.day] ++ be32 s.time.ms
      ++ be16 (s.time.trim % 65536).toNat ++ [byte (s.lineA.st.code + 4 * s.lineB.st.code), byte s.panel.st.code]
      ++ be16 s.panel.lastAck ++ be16 s.port.notices.toNat ++ be24 s.port.enables.toNat
      ++ [byte s.sessions.entries.length, byte s.sessions.changed.length] ++ be16 s.routes.entries.length := by
  rw [State.statusBlock, TimeUnit.statusBytes, trimBytes_eq, hmode, hreason, hstraps, hsync]
  rfl

theorem exec_readStatus {m : Mode} {s : State} (h : PortReady m s) (hm : m ≠ .start) (body : List Byte) :
    exec (.readStatus body) s = .next (s.answer .ok 0x01 s.statusBlock) :=
  congrArg Host.Outcome.next (h.carried hm rfl 0x01 rfl _)

/-- R58, R176. -/
theorem readStatusReports : Claims.ReadStatusReports := by
  intro s m body hready hm
  refine ⟨s.statusBlock, exec_readStatus hready hm body, s.statusBlock_length, State.statusBlock_of_codes ?_ ?_ ?_ ?_⟩
  · rw [hready.mode]
    cases m <;> rfl
  · rcases s.reason with _ | _ | _ | _ <;> rfl
  · rw [strapsCode_eq]
  · cases s.time.sync <;> rfl

/-! ## READ_PLATE (R175, R179) -/

theorem exec_readPlate {s : State} (h : PortReady .run s) (body : List Byte) : exec (.readPlate body) s = .next s.readPlate :=
  congrArg Host.Outcome.next (h.carried_inRun 0x08 rfl _)

theorem Composer.cacheValid_iff (c : Composer) : c.cacheValid = true ↔ c.st = .valid ∨ c.st = .fixed := by
  simp [Composer.cacheValid]

/-- The validity byte of the cache. -/
theorem byte_cacheValid (c : Composer) :
    byte (bitIf c.cacheValid 0) = if c.st = .valid ∨ c.st = .fixed then 0x01 else 0x00 := by
  rw [bitIf, apply_ite byte]
  exact if_congr c.cacheValid_iff rfl rfl

/-- R175, R179. -/
theorem readPlateReturnsTheCache : Claims.ReadPlateReturnsTheCache := by
  intro s body hready
  rw [exec_readPlate hready]
  refine ⟨fun k hcache => ?_, fun hcache => ?_⟩
  · rw [State.readPlate, hcache, ← byte_cacheValid]
    rfl
  · rw [State.readPlate, hcache]
    rfl

/-- Settles O57. -/
theorem statusAndPlateAreRead : Obligations.StatusAndPlateAreRead := ⟨readStatusReports, readPlateReturnsTheCache⟩

/-! ## The requests that take time (R173, R177) -/

/-- R184: a record behind its own length has the form of a post. -/
theorem postFormOk_record {record : List Byte} (h : record.length < 256) (extra : List Byte) :
    postFormOk (byte record.length :: record ++ extra) = true := by
  simp [postFormOk, Nat.mod_eq_of_lt h]

/-- R172: bytes after the record are disregarded. -/
theorem postRecord_record {record : List Byte} (h : record.length < 256) (extra : List Byte) :
    postRecord (byte record.length :: record ++ extra) = record := by
  simp [postRecord, Nat.mod_eq_of_lt h]

theorem exec_postSession {s : State} (h : PortReady .run s) {body : List Byte} (hform : postFormOk body = true) :
    exec (.postSession body) s = .next
      (({ s with sessions := { s.sessions with posting := some (postRecord body) } } : State).takeInHand .postSession 0x05) :=
  congrArg Host.Outcome.next (h.carried_inRun 0x05 hform _)

theorem exec_readSessionByIndex {s : State} (h : PortReady .run s) (i : Byte) (extra : List Byte) :
    exec (.readSessionByIndex (i :: extra)) s = .next (s.takeReadSession (i :: extra)) :=
  congrArg Host.Outcome.next (h.carried_inRun 0x06 (decide_eq_true (by simp)) _)

theorem exec_readSessionNextChanged {s : State} (h : PortReady .run s) (i : Byte) (extra : List Byte) :
    exec (.readSessionNextChanged (i :: extra)) s = .next (s.takeReadSession (i :: extra)) :=
  congrArg Host.Outcome.next (h.carried_inRun 0x06 (decide_eq_true (by simp)) _)

theorem exec_readRoute {s : State} (h : PortReady .run s) (hi lo : Byte) (extra : List Byte) :
    exec (.readRoute (hi :: lo :: extra)) s = .next (s.takeReadRoute (val16 hi lo)) :=
  congrArg Host.Outcome.next (h.carried_inRun 0x07 (decide_eq_true (by simp)) _)

/-- R177: an index of a slot, or the next changed session, goes into hand. -/
theorem State.takeReadSession_taken {i : Byte} (h : i.toNat < 64 ∨ i.toNat = 255) (extra : List Byte) (s : State) :
    s.takeReadSession (i :: extra) = s.takeInHand (.readSession i.toNat) 0x06 :=
  if_neg (by omega)

/-- R177: any other index names no slot. -/
theorem State.takeReadSession_malformed {i : Byte} (hlo : 64 ≤ i.toNat) (hne : i.toNat ≠ 255) (extra : List Byte) (s : State) :
    s.takeReadSession (i :: extra) = s.answer .malformed 0x06 [] :=
  if_pos (by have := i.isLt; omega)

theorem roomOk_iff (room : Nat) : roomOk room = true ↔ 1 ≤ room ∧ room ≤ 1023 := by
  simp [roomOk]

/-- R174, R184: a code above 0x0D is turned away in every mode but START. -/
theorem exec_requestCodeNamesNoRequest {m : Mode} {s : State} (h : PortReady m s) (hm : m ≠ .start) {code : Byte}
    (hcode : 13 < code.toNat) (body : List Byte) :
    exec (.requestCodeNamesNoRequest code body) s = .next (s.responds [0x04, code]) := by
  show Host.Outcome.next (if 13 < code.toNat then s.request code.toNat false inAnyMode id else s) = _
  rw [if_pos hcode, State.request_malformed h.enabled h.free (h.mode ▸ hm) rfl, State.answer_nil]
  rfl

/-- Settles O58: each request is carried out, and goes into hand or is turned away by its own check. -/
theorem requestsThatTakeTimeGoIntoHand : Obligations.RequestsThatTakeTimeGoIntoHand := by
  intro s hand
  refine ⟨fun hready => ⟨fun record extra hlen => ?_, fun i extra hi => ?_, fun i extra hlo hne => ?_, fun extra => ?_,
    fun hi lo extra => ?_⟩, fun m code body hready hm hcode => exec_requestCodeNamesNoRequest hready hm hcode body⟩
  · rw [exec_postSession hready (postFormOk_record hlen extra), postRecord_record hlen]
    rfl
  · rw [exec_readSessionByIndex hready, State.takeReadSession_taken (.inl hi)]
    rfl
  · rw [exec_readSessionByIndex hready, State.takeReadSession_malformed hlo hne]
    rfl
  · rw [exec_readSessionNextChanged hready, State.takeReadSession_taken (.inr rfl)]
    rfl
  · rw [exec_readRoute hready]
    exact congrArg Host.Outcome.next (if_congr (roomOk_iff _) rfl rfl)

/-! ## Notices and enables (R175, R178, R179) -/

theorem exec_ackNotices {s : State} (h : PortReady .run s) (hi lo : Byte) (extra : List Byte) :
    exec (.ackNotices (hi :: lo :: extra)) s = .next (s.ackNotices (hi ++ lo)) :=
  congrArg Host.Outcome.next (h.carried_inRun 0x02 (decide_eq_true (by simp)) _)

theorem exec_setAttentionEnables {s : State} (h : PortReady .run s) (hi mid lo : Byte) (extra : List Byte) :
    exec (.setAttentionEnables (hi :: mid :: lo :: extra)) s =
      .next (s.putEnables 0x03 (s.port.enables ||| namedEnables hi mid lo)) :=
  congrArg Host.Outcome.next (h.carried_inRun 0x03 (decide_eq_true (by simp)) _)

theorem exec_clearAttentionEnables {s : State} (h : PortReady .run s) (hi mid lo : Byte) (extra : List Byte) :
    exec (.clearAttentionEnables (hi :: mid :: lo :: extra)) s =
      .next (s.putEnables 0x04 (s.port.enables &&& ~~~namedEnables hi mid lo)) :=
  congrArg Host.Outcome.next (h.carried_inRun 0x04 (decide_eq_true (by simp)) _)

/-- R184: the enables named are the low 18 bits of the number that three bytes give. -/
theorem namedEnables_eq (hi mid lo : Byte) :
    namedEnables hi mid lo = BitVec.ofNat 18 (hi.toNat * 65536 + mid.toNat * 256 + lo.toNat) := by
  refine BitVec.eq_of_toNat_eq ?_
  rw [namedEnables, BitVec.toNat_setWidth, BitVec.toNat_ofNat, toNat_append_byte, toNat_append_byte]
  omega

/-- R175, R178, R179, R184. -/
theorem noticesAndEnablesAreAnswered : Claims.NoticesAndEnablesAreAnswered := by
  intro s hi mid lo extra hready notices named
  have hnamed : namedEnables hi mid lo = named := namedEnables_eq hi mid lo
  refine ⟨?_, ?_, ?_⟩
  · rw [exec_ackNotices hready]
    rfl
  · rw [exec_setAttentionEnables hready, hnamed]
    rfl
  · rw [exec_clearAttentionEnables hready, hnamed]
    rfl

/-! ## ATTN (R180) -/

/-- Two bit sets meet exactly where some bit is in both. -/
theorem and_ne_zero_iff {w : Nat} (x y : BitVec w) :
    x &&& y ≠ 0#w ↔ ∃ i, i < w ∧ x.getLsbD i = true ∧ y.getLsbD i = true := by
  constructor
  · intro h
    by_contra hnone
    refine h (BitVec.eq_of_getLsbD_eq fun i hi => ?_)
    rw [BitVec.getLsbD_and, BitVec.getLsbD_zero]
    exact Bool.eq_false_of_not_eq_true fun hb => hnone ⟨i, hi, (Bool.and_eq_true_iff).1 hb⟩
  · rintro ⟨i, -, hx, hy⟩ h
    have hbit := congrArg (·.getLsbD i) h
    simp [hx, hy] at hbit

/-- Some notice is set and enabled. -/
theorem notices_enabled_iff (p : LocalPort) : p.notices &&& p.enables.setWidth 16 ≠ 0 ↔
    ∃ i, i < 16 ∧ p.notices.getLsbD i = true ∧ p.enables.getLsbD i = true := by
  refine (and_ne_zero_iff _ _).trans (exists_congr fun i => and_congr_right fun hi => and_congr_right fun _ => ?_)
  simp [hi]

/-- R180: the three conditions of ATTN. -/
theorem State.attnCondition_iff (s : State) : s.attnCondition = true ↔
    (∃ i, i < 16 ∧ s.port.notices.getLsbD i = true ∧ s.port.enables.getLsbD i = true) ∨
    (s.port.enables.getLsbD 16 = true ∧ s.sessions.changed ≠ []) ∨
    (s.port.enables.getLsbD 17 = true ∧ s.port.delivered = true) := by
  rw [← notices_enabled_iff]
  simp [State.attnCondition, changedSessionsBit, plateDeliveredBit, or_assoc]

/-- R180. -/
theorem attnFollowsItsConditions : Claims.AttnFollowsItsConditions :=
  fun s => ⟨fun hlow => if_neg (by simp [hlow]), fun hhigh => ⟨s.attnCondition, if_pos hhigh, s.attnCondition_iff⟩⟩

/-- Settles O59. -/
theorem noticesEnablesAndAttention : Obligations.NoticesEnablesAndAttention :=
  ⟨noticesAndEnablesAreAnswered, attnFollowsItsConditions⟩

end Sys2Proof.Machine
end

section
/-! PROOFS. What a step does: on a queue with a command (O1) and on an empty one (O2; log entries 6 and 9). -/

namespace Sys2Proof.Machine

/-! ## The command at the front -/

theorem step_of_command {s : State} {c : Instr} {rest : List Instr} (h : s.pending = c :: rest) :
    step s = exec c { s with pending := rest } := by
  rw [step, h]

/-- Settles O1. -/
theorem stepRunsFrontCommand : Obligations.StepRunsFrontCommand := fun _ _ _ => step_of_command rfl

/-! ## The empty queue -/

theorem step_of_empty {s : State} (h : s.pending = []) : step s = s.idle := by
  rw [step, h]

theorem State.idle_of_none {s : State} (h : ∀ c ∈ s.ownEvents, s.dueNow c = false) : s.idle = .next (s.elapse 1) := by
  have hnone : s.ownEvents.find? s.dueNow = none :=
    List.find?_eq_none.2 fun c hc => Bool.not_eq_true _ ▸ h c hc
  rw [State.idle, hnone]

theorem State.idle_of_first {s : State} {before after : List Instr} {c : Instr} (h : s.ownEvents = before ++ c :: after)
    (hbefore : ∀ d ∈ before, s.dueNow d = false) (hdue : s.dueNow c = true) : s.idle = s.ownStep c := by
  have hfirst : s.ownEvents.find? s.dueNow = some c :=
    List.find?_eq_some_iff_append.2 ⟨hdue, before, after, h, fun d hd => by rw [hbefore d hd]; rfl⟩
  rw [State.idle, hfirst]

/-- The jobs on the entries of the Route Table (R101), each with the command that does all that is left of it. -/
def jobCommands : List (Job × Instr) :=
  [(.condition, .conditionRecomputation), (.pins, .pinSetUpdate), (.advert, .advertJob), (.sweep, .sweep)]

/-- R101, log entry 9. -/
theorem State.ownStep_of_job {j : Job} {c : Instr} (h : (j, c) ∈ jobCommands) (s : State) :
    s.ownStep c = .next (s.doJob j (some 1)) := by
  simp only [jobCommands, List.mem_cons, Prod.mk.injEq, List.not_mem_nil, or_false] at h
  obtain ⟨rfl, rfl⟩ | ⟨rfl, rfl⟩ | ⟨rfl, rfl⟩ | ⟨rfl, rfl⟩ := h
  all_goals rfl

theorem State.ownStep_of_other {c : Instr} (h : ∀ j, (j, c) ∉ jobCommands) (s : State) : s.ownStep c = exec c s := by
  unfold State.ownStep
  split
  · exact absurd (by simp [jobCommands]) (h .condition)
  · exact absurd (by simp [jobCommands]) (h .pins)
  · exact absurd (by simp [jobCommands]) (h .advert)
  · exact absurd (by simp [jobCommands]) (h .sweep)
  · rfl

/-- Settles O2: on an empty queue a step is the first event due, told apart by whether it goes on with a job, or else 1 µs. -/
theorem emptyQueueLetsTheBlockGoOn : Obligations.EmptyQueueLetsTheBlockGoOn := by
  intro s hempty
  rw [step_of_empty hempty]
  refine ⟨State.idle_of_none, fun before c after hown hbefore hdue => ?_⟩
  rw [State.idle_of_first hown hbefore hdue]
  exact ⟨fun hother => s.ownStep_of_other hother, fun _ hjob => s.ownStep_of_job hjob⟩

end Sys2Proof.Machine
end
